-- ==== Sys2Proof/Word.lean ====
section
/-!
DEFINITION. Words, addresses and limits.

A WORD is an `Int` in a range, not a string of bits: 00_scope.md R8 and R12 state every rule on mathematical integers,
no instruction exposes a bit of a word (R8), and an instruction word is taken apart by its decimal digits (R11). The range
check is `Config.isWord` (notes/assumptions/1.md). An ADDRESS that has been checked is a `Nat`, the number of a cell
(20_memory.md R51); one that has not is an `Int`. The two core types stand under their own names everywhere, because the
decision procedures for linear arithmetic do not look through an abbreviation.
-/

namespace Sys2Proof

/-- A parameter of 00_scope.md R7 that is "an integer" or `inf`. -/
inductive Limit where
  | finite (n : Nat)
  | inf
deriving DecidableEq, Repr

/-- `n ≤ l`. -/
def Limit.allows : Limit → Nat → Bool
  | .finite l, n => decide (n ≤ l)
  | .inf, _ => true

/-- `n < l`. -/
def Limit.exceeds : Limit → Nat → Bool
  | .finite l, n => decide (n < l)
  | .inf, _ => true

end Sys2Proof
end

