-- ==== Sys2Proof/Config.lean ====
section
/-!
DEFINITION. The parameters of 00_scope.md R7, their legal values and defaults, the word range of R8, and the free values.

A machine carries its parameters in `State.cfg`, so every statement is about every configuration
(notes/assumptions/3.md).
-/

namespace Sys2Proof

/-- The ten parameters `OPC_*` (00_scope.md R7, 30_encoding.md R75). -/
structure OpcodeNumbers where
  add : Nat
  mul : Nat
  inp : Nat
  out : Nat
  jt : Nat
  jf : Nat
  lt : Nat
  eq : Nat
  arb : Nat
  hlt : Nat
deriving DecidableEq, Repr

def OpcodeNumbers.toList (o : OpcodeNumbers) : List Nat :=
  [o.add, o.mul, o.inp, o.out, o.jt, o.jf, o.lt, o.eq, o.arb, o.hlt]

/-- The defaults of 30_encoding.md R75. 06, 07, 08 and 09 are not attested by the source (R76, notes/assumptions/4.md). -/
def OpcodeNumbers.default : OpcodeNumbers :=
  { add := 1, mul := 2, inp := 3, out := 4, jt := 5, jf := 6, lt := 7, eq := 8, arb := 9, hlt := 99 }

/-- The implementation parameters (00_scope.md R7). -/
structure Config where
  /-- `XLEN` -/
  xlen : Limit
  /-- `MEM_CELLS` -/
  memCells : Limit
  /-- `MARGIN` -/
  margin : Nat
  /-- `FIFO_DEPTH` -/
  fifoDepth : Limit
  /-- `OPC_*` -/
  opc : OpcodeNumbers
deriving DecidableEq, Repr

/-- The defaults of 00_scope.md R7 (notes/assumptions/4.md for `MEM_CELLS`). -/
def Config.default : Config :=
  { xlen := .finite 64, memCells := .inf, margin := 4096, fifoDepth := .inf, opc := .default }

/-- `INT_MIN ≤ v ≤ INT_MAX` (00_scope.md R8); with `XLEN = inf` every integer is a word. -/
def Config.isWord (c : Config) (v : Int) : Bool :=
  match c.xlen with
  | .finite n => decide (-((2 ^ (n - 1) : Nat) : Int) ≤ v) && decide (v < ((2 ^ (n - 1) : Nat) : Int))
  | .inf => true

/-- The legal values of 00_scope.md R7. -/
def Config.wf (c : Config) : Bool :=
  (match c.xlen with
    | .finite n => decide (64 ≤ n)
    | .inf => true) &&
  (match c.memCells with
    | .finite m => decide (c.margin ≤ m) &&
        (match c.xlen with
          | .finite n => decide (m + 4 ≤ 2 ^ (n - 1))
          | .inf => true)
    | .inf => true) &&
  c.fifoDepth.allows 1 &&
  c.opc.toList.all (fun n => decide (n ≤ 99)) &&
  decide c.opc.toList.Nodup

/-- The k-th free value: an integer of which nothing is known (notes/assumptions/7.md). -/
opaque Config.freeInt : Nat → Int

/-- The k-th free value as a word of this configuration: any word at all (93_implementation_defined.md U18). -/
def Config.freeWord (c : Config) (k : Nat) : Int :=
  match c.xlen with
  | .finite n => (Config.freeInt k).bmod (2 ^ n)
  | .inf => Config.freeInt k

/-- The k-th free value as a content of a register as wide as `pc`: any of `0 .. MEM_CELLS` (10_state.md R22, R29). -/
def Config.freePc (c : Config) (k : Nat) : Nat :=
  match c.memCells with
  | .finite m => (Config.freeInt k).toNat % (m + 1)
  | .inf => (Config.freeInt k).toNat

end Sys2Proof
end

