-- ==== Sys2Proof/Syntax.lean ====
section
/-!
DEFINITION. The ten instructions, one constructor a row of spec/opcode_table.json, and their operands as the
instruction word and the parameter words spell them (30_encoding.md R70 to R72, R78).
-/

namespace Sys2Proof

/-- What a mode digit says (30_encoding.md R78); `reserved k` is the digit `k + 3` (R79). -/
inductive Mode where
  | position
  | immediate
  | relative
  | reserved (k : Fin 7)
deriving DecidableEq, Repr

/-- One operand: its mode digit, and its parameter word. `param = none` says that the parameter's cell lies beyond
the last cell of Memory, so that its fetch faults (30_encoding.md R80, first line; notes/assumptions/12.md). -/
structure Operand where
  mode : Mode
  param : Option Int
deriving DecidableEq, Repr

/-- A source operand's value is read; a destination operand names the cell written (30_encoding.md R72). -/
inductive OperandKind where
  | src
  | dst
deriving DecidableEq, Repr

/-- An instruction as decoded from its words, its operands not yet resolved. -/
inductive Instr where
  | add (a b out : Operand)
  | mul (a b out : Operand)
  | inp (out : Operand)
  | out (a : Operand)
  | jt (a b : Operand)
  | jf (a b : Operand)
  | lt (a b out : Operand)
  | eq (a b out : Operand)
  | arb (a : Operand)
  | hlt
deriving DecidableEq, Repr

/-- The opcode's name, apart from its number, which is a parameter (30_encoding.md R75). -/
inductive Opcode where
  | add | mul | inp | out | jt | jf | lt | eq | arb | hlt
deriving DecidableEq, Repr

end Sys2Proof
end

