-- ==== Sys2Proof/WellFormed.lean ====
section
/-!
DEFINITION. Which instructions are well formed: every parameter word is there and is a word (00_scope.md R8), no mode
digit is reserved (30_encoding.md R79) and no destination is immediate (R81). A term that is not well formed still has a
meaning: the fault the spec names (60_exceptions.md R182, R185, R186).
-/

namespace Sys2Proof

/-- An instruction's operands in order, operand 1 first, with their kinds (30_encoding.md R72). -/
def Instr.operands : Instr → List (OperandKind × Operand)
  | .add a b d => [(.src, a), (.src, b), (.dst, d)]
  | .mul a b d => [(.src, a), (.src, b), (.dst, d)]
  | .inp d => [(.dst, d)]
  | .out a => [(.src, a)]
  | .jt a b => [(.src, a), (.src, b)]
  | .jf a b => [(.src, a), (.src, b)]
  | .lt a b d => [(.src, a), (.src, b), (.dst, d)]
  | .eq a b d => [(.src, a), (.src, b), (.dst, d)]
  | .arb a => [(.src, a)]
  | .hlt => []

/-- The parameter word is there, and is a word. -/
def Operand.complete (c : Config) (o : Operand) : Bool :=
  match o.param with
  | some p => c.isWord p
  | none => false

/-- Every parameter word is there. -/
def Instr.complete (c : Config) (i : Instr) : Bool :=
  i.operands.all (fun ko => ko.2.complete c)

/-- The modes an operand of each kind may have (30_encoding.md R78, R81). -/
def Mode.legalFor : Mode → OperandKind → Bool
  | .position, _ => true
  | .immediate, .src => true
  | .immediate, .dst => false
  | .relative, _ => true
  | .reserved _, _ => false

/-- Every mode is one the operand's kind may have. -/
def Instr.modesLegal (i : Instr) : Bool :=
  i.operands.all (fun ko => ko.2.mode.legalFor ko.1)

def Instr.wf (c : Config) (i : Instr) : Bool :=
  i.complete c && i.modesLegal

/-- The width in cells (30_encoding.md R70, R72). -/
def Instr.width : Instr → Nat
  | .add _ _ _ => 4
  | .mul _ _ _ => 4
  | .inp _ => 2
  | .out _ => 2
  | .jt _ _ => 3
  | .jf _ _ => 3
  | .lt _ _ _ => 4
  | .eq _ _ _ => 4
  | .arb _ => 2
  | .hlt => 1

end Sys2Proof
end

