-- ==== Sys2Proof/Decode.lean ====
section
/-!
DEFINITION. The decoder, the encoder, and the reading of an instruction from numbered bits.

Decoding is by decimal digits (30_encoding.md R71, R73, R84). `decode` is total on any list of words; it rejects by name
a negative word or an unknown opcode (R74, R77). A reserved mode digit, an immediate destination and a missing parameter
word do not stop it here: those faults are raised only when the operand's turn comes (60_exceptions.md R189), so they
are raised where operands are resolved (Machine/Operands.lean).
-/

namespace Sys2Proof

/-- `digit(w, k)` (00_scope.md R11). -/
def digit (w k : Nat) : Nat := w / 10 ^ k % 10

/-- The meaning of a mode digit (30_encoding.md R78, R79). -/
def Mode.ofDigit : Nat → Mode
  | 0 => .position
  | 1 => .immediate
  | 2 => .relative
  | k + 3 => .reserved (Fin.ofNat 7 k)

/-- The digit of a mode. -/
def Mode.toDigit : Mode → Nat
  | .position => 0
  | .immediate => 1
  | .relative => 2
  | .reserved k => k.val + 3

/-- The opcode numbers of a configuration (30_encoding.md R75). -/
def Opcode.number (c : Config) : Opcode → Nat
  | .add => c.opc.add
  | .mul => c.opc.mul
  | .inp => c.opc.inp
  | .out => c.opc.out
  | .jt => c.opc.jt
  | .jf => c.opc.jf
  | .lt => c.opc.lt
  | .eq => c.opc.eq
  | .arb => c.opc.arb
  | .hlt => c.opc.hlt

def Opcode.all : List Opcode :=
  [.add, .mul, .inp, .out, .jt, .jf, .lt, .eq, .arb, .hlt]

/-- The instruction selected by `op = W mod 100`, if any (30_encoding.md R73, R77). -/
def Opcode.ofNumber (c : Config) (op : Nat) : Option Opcode :=
  Opcode.all.find? (fun o => o.number c == op)

/-- The instruction of an opcode, its operands given by their numbers 1 to 3 (30_encoding.md R72, R84). -/
def Opcode.assemble (o : Opcode) (operand : Nat → Operand) : Instr :=
  match o with
  | .add => .add (operand 1) (operand 2) (operand 3)
  | .mul => .mul (operand 1) (operand 2) (operand 3)
  | .inp => .inp (operand 1)
  | .out => .out (operand 1)
  | .jt => .jt (operand 1) (operand 2)
  | .jf => .jf (operand 1) (operand 2)
  | .lt => .lt (operand 1) (operand 2) (operand 3)
  | .eq => .eq (operand 1) (operand 2) (operand 3)
  | .arb => .arb (operand 1)
  | .hlt => .hlt

/-- Operand `n` (1 to 3): its mode is `digit(W, n + 1)`, its parameter the n-th word after the instruction word
(30_encoding.md R71, R78). -/
def operandAt (w : Nat) (params : List Int) (n : Nat) : Operand :=
  { mode := Mode.ofDigit (digit w (n + 1)), param := params[n - 1]? }

/-- Why no instruction is decoded. -/
inductive Reject where
  /-- There is no instruction word: `pc` is beyond the last cell (20_memory.md R52). -/
  | noWord
  /-- The word selects no instruction; the code is `FINFO` (30_encoding.md R74, R77, 60_exceptions.md R181). -/
  | unknownOpcode (code : Int)
deriving DecidableEq, Repr

/-- The decoder, on the words from `pc` on (30_encoding.md R73, R74, R77, R84). Words beyond the instruction's own are
not looked at. -/
def decode (c : Config) (words : List Int) : Except Reject Instr :=
  match words with
  | [] => .error .noWord
  | w :: params =>
    if w < 0 then .error (.unknownOpcode (w.tmod 100))
    else
      match Opcode.ofNumber c (w.toNat % 100) with
      | none => .error (.unknownOpcode ((w.toNat % 100 : Nat) : Int))
      | some o => .ok (o.assemble (operandAt w.toNat params))

/-! The encoder (30_encoding.md R71, R72, R94). -/

def Instr.opcode : Instr → Opcode
  | .add _ _ _ => .add
  | .mul _ _ _ => .mul
  | .inp _ => .inp
  | .out _ => .out
  | .jt _ _ => .jt
  | .jf _ _ => .jf
  | .lt _ _ _ => .lt
  | .eq _ _ _ => .eq
  | .arb _ => .arb
  | .hlt => .hlt

/-- The mode digits as one number, operand 1 the units. -/
def modeDigits : List (OperandKind × Operand) → Nat
  | [] => 0
  | (_, o) :: os => o.mode.toDigit + 10 * modeDigits os

/-- `W = op + 100*m1 + 1000*m2 + 10000*m3`, with 0 for a digit that belongs to no operand (30_encoding.md R71, R94). -/
def Instr.word (c : Config) (i : Instr) : Nat :=
  i.opcode.number c + 100 * modeDigits i.operands

/-- The words of an instruction: its instruction word, then its parameter words in order (30_encoding.md R70). -/
def encode (c : Config) (i : Instr) : List Int :=
  (i.word c : Int) :: i.operands.filterMap (fun ko => ko.2.param)

/-! Instructions given as numbered bits, for the host's questions (notes/assumptions/15.md). -/

/-- The signed integer an `n`-bit word spells in two's complement (00_scope.md R8). -/
def signedOf (n v : Nat) : Int :=
  if v < 2 ^ (n - 1) then (v : Int) else (v : Int) - ((2 ^ n : Nat) : Int)

/-- The four words, of `n` bits each, of which the bits of `w` below `nbits` are the first; the others are 0. -/
def tableWords (n nbits w : Nat) : List Int :=
  let v := w % 2 ^ nbits
  (List.range 4).map (fun k => signedOf n (v / 2 ^ (n * k) % 2 ^ n))

/-- The width in bits of one cell for `tableWords`; a machine with `XLEN = inf` is given words of 64 bits. -/
def Config.cellBits (c : Config) : Nat :=
  match c.xlen with
  | .finite n => n
  | .inf => 64

/-- The instruction the decoder reads from an instruction whose bits are `w`, with the default parameters. -/
def decodeTableWord (nbits w : Nat) : Option Instr :=
  (decode Config.default (tableWords Config.default.cellBits nbits w)).toOption

end Sys2Proof
end

