-- ==== Sys2Proof/Machine/State.lean ====
section
/-!
DEFINITION. The state of one instance of the IntCode core (10_state.md R19), the events the outside world offers it,
the reasons a step can stop, and the state after reset (10_state.md R39).
-/

namespace Sys2Proof.Machine

/-- Memory: the cells that do not hold 0, as (address, word), addresses strictly rising (`Memory.wf`). A cell that is
not listed holds 0, as the spec says (20_memory.md R53, notes/assumptions/2.md). -/
abbrev Memory := List (Nat × Int)

/-- The five values of `STATE` (10_state.md R26). -/
inductive RunState where
  | ready | run | suspended | halted | faulted
deriving DecidableEq, Repr

/-- The values of `FCAUSE` (60_exceptions.md R180). -/
inductive Cause where
  | noFault
  | unknownOpcode
  | invalidDestinationMode
  | inputUnderflow
  | alreadyHalted
  | reservedMode
  | addressOutOfRange
  | arithmeticOverflow
deriving DecidableEq, Repr

/-- A fault that an instruction or command raises: what `FCAUSE` and `FINFO` will say (60_exceptions.md R180, R190). -/
structure Trap where
  cause : Cause
  info : Int
deriving DecidableEq, Repr

/-- The host's three commands (47_host_commands.md R150). -/
inductive Command where
  | construct (program inputs : List Int)
  | enqueue (v : Int)
  | run
deriving DecidableEq, Repr

/-- Whose move it is (00_scope.md R9): the core's, or the host's with a command. -/
inductive Event where
  | core
  | host (c : Command)
deriving DecidableEq, Repr

structure State where
  /-- The parameters; no step changes them (00_scope.md R7, notes/assumptions/3.md). -/
  cfg : Config
  /-- Whether a `CONSTRUCT` has ever completed (10_state.md R39, 47_host_commands.md R150, notes/assumptions/11.md). -/
  constructed : Bool
  /-- `M` (10_state.md R32) -/
  mem : Memory
  /-- The program counter (10_state.md R22) -/
  pc : Nat
  /-- The relative base (10_state.md R24) -/
  rb : Int
  /-- `Q`, the input FIFO, its head first (10_state.md R30) -/
  q : List Int
  /-- `STATE` (10_state.md R26) -/
  runState : RunState
  /-- `OUT_VALID` (10_state.md R28) -/
  outValid : Bool
  /-- `OUT_DATA` (10_state.md R28) -/
  outData : Int
  /-- `FCAUSE` (10_state.md R29) -/
  fcause : Cause
  /-- `FPC` (10_state.md R29) -/
  fpc : Nat
  /-- `FINFO` (10_state.md R29) -/
  finfo : Int
  /-- The moves to come, next first; after the last every move is the core's (00_scope.md R9, R10,
  notes/assumptions/8.md). The model's own field. -/
  schedule : List Event
  /-- How many free values have been drawn (notes/assumptions/7.md). The model's own field. -/
  freeIdx : Nat
deriving DecidableEq, Repr

/-- Why the machine stops with a fault. The faults of 60_exceptions.md are not among these: they are states, entered as
R190 says (notes/assumptions/14.md). -/
inductive Fault where
  /-- Raised by a core's turn on an instance on which no `CONSTRUCT` has completed: its state is unspecified in every
  part (10_state.md R39, 93_implementation_defined.md U19). Safe: the model stops. -/
  | neverConstructed
deriving DecidableEq, Repr

/-- Why a host command has no effect. The spec gives the host no such move (93_implementation_defined.md, treatment
`refuse`; notes/assumptions/10.md). Safe: the model stops. -/
inductive Refusal where
  /-- An instruction that has no meaning yet; exec's arm raises it. No arm does. Safe: the model stops. -/
  | notModelled (mnemonic : String)
  /-- `ENQUEUE` or `RUN` on an instance on which no `CONSTRUCT` has completed (47_host_commands.md R150). Safe. -/
  | commandBeforeConstruct
  /-- `CONSTRUCT` with `len(program) + MARGIN > MEM_CELLS` (47_host_commands.md R151). Safe. -/
  | programDoesNotFit
  /-- `CONSTRUCT` with `len(initial_inputs) > FIFO_DEPTH` (47_host_commands.md R151). Safe. -/
  | inputsDoNotFit
  /-- `CONSTRUCT` with an element that is not a word (47_host_commands.md R151), or `ENQUEUE` of such a value
  (notes/assumptions/16.md). Safe. -/
  | notAWord
  /-- `ENQUEUE` when `IN_FULL = 1` (47_host_commands.md R152). Safe. -/
  | fifoFull
  /-- `RUN` in `RUN` (47_host_commands.md R156). Safe. -/
  | runWhileRunning
  /-- `RUN` in `FAULTED` (47_host_commands.md R156). Safe. -/
  | runWhileFaulted
deriving DecidableEq, Repr

/-- The state that `CONSTRUCT([], [])` leaves with the default parameters (10_state.md R39). `outData`, `fpc` and `finfo`
are unspecified there: 0 is the model's choice (DESIGN CHOICE, unsafe, notes/assumptions/5.md). -/
def State.reset : State :=
  { cfg := Config.default
    constructed := true
    mem := []
    pc := 0
    rb := 0
    q := []
    runState := .ready
    outValid := false
    outData := 0
    fcause := .noFault
    fpc := 0
    finfo := 0
    schedule := []
    freeIdx := 0 }

end Sys2Proof.Machine
end

