-- ==== Sys2Proof/Machine/Ops.lean ====
section
/-!
DEFINITION. The named operations over Memory and the registers, taking a fault, and the status registers as the host
reads them.

There is no return from a fault and no return instruction (60_exceptions.md R192): `FAULTED` is left only by `CONSTRUCT`
(Machine/HostCommands.lean).
-/

namespace Sys2Proof.Machine

/-- How every meaning answers. -/
abbrev Outcome := Host.Outcome State Fault Refusal

/-! ## Memory (20_memory.md) -/

/-- The canonical form: addresses strictly rising, no cell listed that holds 0. -/
def Memory.wf : Memory → Bool
  | [] => true
  | (k, v) :: m => decide (v ≠ 0) && m.all (fun e => decide (k < e.1)) && Memory.wf m

/-- The word in a cell; a cell that is not listed holds 0 (20_memory.md R53). -/
def Memory.read : Memory → Nat → Int
  | [], _ => 0
  | (k, v) :: m, a => if a = k then v else Memory.read m a

/-- Cell `a` becomes `v`; the canonical form is kept. -/
def Memory.write : Memory → Nat → Int → Memory
  | [], a, v => if v = 0 then [] else [(a, v)]
  | (k, u) :: m, a, v =>
    if a < k then (if v = 0 then (k, u) :: m else (a, v) :: (k, u) :: m)
    else if a = k then (if v = 0 then m else (a, v) :: m)
    else (k, u) :: Memory.write m a v

/-- The image of a program whose first word is at `base`, every other cell 0 (47_host_commands.md R151). -/
def Memory.image (base : Nat) : List Int → Memory
  | [] => []
  | v :: vs => if v = 0 then Memory.image (base + 1) vs else (base, v) :: Memory.image (base + 1) vs

/-- `0 ≤ a < MEM_CELLS` (20_memory.md R52). -/
def State.inMemory (s : State) (a : Int) : Bool :=
  decide (0 ≤ a) && s.cfg.memCells.exceeds a.toNat

/-- The range check that `MemRead`, `MemWrite`, a destination and a taken jump make (20_memory.md R52, 43_jump.md R133):
the cell, or `AddressOutOfRange(a)`. -/
def State.checkAddr (s : State) (a : Int) : Except Trap Nat :=
  if s.inMemory a then .ok a.toNat else .error { cause := .addressOutOfRange, info := a }

/-- `MemRead(a, 1)` (00_scope.md R12). -/
def State.memRead (s : State) (a : Int) : Except Trap Int :=
  match s.checkAddr a with
  | .ok k => .ok (s.mem.read k)
  | .error t => .error t

/-! ## Arithmetic on words (00_scope.md R12, 40_arithmetic.md R104) -/

/-- `chk(v)` with the `FINFO` that the fault gets: 0 for a result, the operand's number for an address
(60_exceptions.md R187). -/
def State.chk (s : State) (info : Int) (v : Int) : Except Trap Int :=
  if s.cfg.isWord v then .ok v else .error { cause := .arithmeticOverflow, info := info }

/-! ## Updates of the registers -/

/-- `pc <- pc + n` (10_state.md R23). -/
def State.advance (s : State) (n : Nat) : State := { s with pc := s.pc + n }

/-- `pc <- a`, `a` checked (43_jump.md R133). -/
def State.jumpTo (s : State) (a : Nat) : State := { s with pc := a }

/-- `MemWrite(d, 1, v)`, `d` checked (00_scope.md R12). -/
def State.store (s : State) (d : Nat) (v : Int) : State := { s with mem := s.mem.write d v }

/-- `Q` after a pop, `rest` its words but the head (10_state.md R30). -/
def State.setQueue (s : State) (rest : List Int) : State := { s with q := rest }

/-- `rb <- v` (44_base_adjust.md R140). -/
def State.setBase (s : State) (v : Int) : State := { s with rb := v }

/-- `OUT_DATA <- v`, `OUT_VALID <- 1`, `STATE <- SUSPENDED` (42_io.md R122). -/
def State.latchOutput (s : State) (v : Int) : State :=
  { s with outData := v, outValid := true, runState := .suspended }

/-- `STATE <- HALTED` (45_halt.md R145). -/
def State.halt (s : State) : State := { s with runState := .halted }

/-- Taking a fault: `FCAUSE <- code`, `FPC <- pc`, `FINFO <- info`, `STATE <- FAULTED`, and nothing else
(60_exceptions.md R190). -/
def State.takeFault (s : State) (t : Trap) : State :=
  { s with fcause := t.cause, fpc := s.pc, finfo := t.info, runState := .faulted }

/-- How an instruction ends: with its effect, or, if it raised a fault, in the state before it with the fault taken
(60_exceptions.md R190, R191). -/
def State.conclude (s : State) (r : Except Trap State) : Outcome :=
  match r with
  | .ok t => .next t
  | .error t => .next (s.takeFault t)

/-! ## The registers as the host reads them (10_state.md R26, R29, R31, R37, R38) -/

/-- The code of `STATE` (10_state.md R26). -/
def RunState.code : RunState → BitVec 3
  | .ready => 0
  | .run => 1
  | .suspended => 2
  | .halted => 3
  | .faulted => 4

/-- The code of `FCAUSE` (60_exceptions.md R180). -/
def Cause.code : Cause → BitVec 3
  | .noFault => 0
  | .unknownOpcode => 1
  | .invalidDestinationMode => 2
  | .inputUnderflow => 3
  | .alreadyHalted => 4
  | .reservedMode => 5
  | .addressOutOfRange => 6
  | .arithmeticOverflow => 7

/-- `IN_EMPTY` (10_state.md R31). -/
def State.inEmpty (s : State) : Bool := s.q.isEmpty

/-- `IN_FULL` (10_state.md R31): `Q` holds `FIFO_DEPTH` words; always 0 when `FIFO_DEPTH = inf`. -/
def State.inFull (s : State) : Bool := !s.cfg.fifoDepth.exceeds s.q.length

/-- The output ports (10_state.md R37): all that the host can see (R38, 47_host_commands.md R150). -/
structure Ports where
  inReady : Bool
  inEmpty : Bool
  state : BitVec 3
  outValid : Bool
  outData : Int
  fcause : BitVec 3
  fpc : Nat
  finfo : Int
deriving DecidableEq, Repr

/-- The host must use `outData` only while `outValid`, `fpc` and `finfo` only while `fcause` is not 0 (10_state.md R28, R29). -/
def State.ports (s : State) : Ports :=
  { inReady := !s.inFull
    inEmpty := s.inEmpty
    state := s.runState.code
    outValid := s.outValid
    outData := s.outData
    fcause := s.fcause.code
    fpc := s.fpc
    finfo := s.finfo }

end Sys2Proof.Machine
end

