-- ==== Sys2Proof/Machine/Operands.lean ====
section
/-!
DEFINITION. Resolving operands: `SrcVal(n)` and `DstAddr(n)` (30_encoding.md R80, R81), with their tests in the order of
60_exceptions.md R189: parameter fetch, mode, address overflow, range.
-/

namespace Sys2Proof.Machine

/-- `Param(n)`: the parameter word, or `AddressOutOfRange(pc + n)` when its cell is beyond the last one (30_encoding.md R80,
first line). -/
def State.param (s : State) (n : Nat) (o : Operand) : Except Trap Int :=
  match o.param with
  | some p => .ok p
  | none => .error { cause := .addressOutOfRange, info := (s.pc : Int) + n }

/-- The relative address `rb + p` of operand `n`, checked to be a word (30_encoding.md R80, R81). -/
def State.relative (s : State) (n : Nat) (p : Int) : Except Trap Int :=
  s.chk n (s.rb + p)

/-- `SrcVal(n)` (30_encoding.md R80). -/
def State.srcVal (s : State) (n : Nat) (o : Operand) : Except Trap Int :=
  match s.param n o with
  | .error t => .error t
  | .ok p =>
    match o.mode with
    | .position => s.memRead p
    | .immediate => .ok p
    | .relative =>
      match s.relative n p with
      | .error t => .error t
      | .ok ea => s.memRead ea
    | .reserved _ => .error { cause := .reservedMode, info := n }

/-- `DstAddr(n)` (30_encoding.md R81). The destination cell is not read. -/
def State.dstAddr (s : State) (n : Nat) (o : Operand) : Except Trap Nat :=
  match s.param n o with
  | .error t => .error t
  | .ok p =>
    match o.mode with
    | .position => s.checkAddr p
    | .immediate => .error { cause := .invalidDestinationMode, info := n }
    | .relative =>
      match s.relative n p with
      | .error t => .error t
      | .ok a => s.checkAddr a
    | .reserved _ => .error { cause := .reservedMode, info := n }

/-- Format `F4` (30_encoding.md R72, R84): operands 1, 2, 3 resolved in that order, then the result computed, then the one
write and `pc + 4` (20_memory.md R57). -/
def State.binary (s : State) (a b d : Operand) (result : Int → Int → Except Trap Int) : Outcome :=
  s.conclude
    (match s.srcVal 1 a with
      | .error t => .error t
      | .ok x =>
        match s.srcVal 2 b with
        | .error t => .error t
        | .ok y =>
          match s.dstAddr 3 d with
          | .error t => .error t
          | .ok k =>
            match result x y with
            | .error t => .error t
            | .ok r => .ok ((s.store k r).advance 4))

/-- Format `F3` (30_encoding.md R72, 43_jump.md R130): both operands resolved, whether or not the jump is taken; a taken
jump's target is range checked (43_jump.md R133). -/
def State.jumpWhen (s : State) (a b : Operand) (taken : Int → Bool) : Outcome :=
  s.conclude
    (match s.srcVal 1 a with
      | .error t => .error t
      | .ok x =>
        match s.srcVal 2 b with
        | .error t => .error t
        | .ok y =>
          if taken x then
            match s.checkAddr y with
            | .error t => .error t
            | .ok k => .ok (s.jumpTo k)
          else .ok (s.advance 3))

/-- Format `F2S` (30_encoding.md R72): the operand resolved, then the effect, then `pc + 2`. -/
def State.unary (s : State) (a : Operand) (effect : Int → Except Trap State) : Outcome :=
  s.conclude
    (match s.srcVal 1 a with
      | .error t => .error t
      | .ok x =>
        match effect x with
        | .error t => .error t
        | .ok u => .ok (u.advance 2))

end Sys2Proof.Machine
end

