-- ==== Sys2Proof/Machine/Arithmetic.lean ====
section
/-!
DEFINITION. `ADD` and `MUL` (40_arithmetic.md R100 to R104): the exact result, or `ArithmeticOverflow(0)`.
-/

namespace Sys2Proof.Machine

/-- `ADD a, b, out` (40_arithmetic.md R101). -/
def execAdd (a b out : Operand) (s : State) : Outcome :=
  s.binary a b out (fun x y => s.chk 0 (x + y))

/-- `MUL a, b, out` (40_arithmetic.md R102). -/
def execMul (a b out : Operand) (s : State) : Outcome :=
  s.binary a b out (fun x y => s.chk 0 (x * y))

end Sys2Proof.Machine
end

