-- ==== Sys2Proof/Machine/BaseAdjust.lean ====
section
/-!
DEFINITION. `ARB` (44_base_adjust.md R140), the only instruction that writes `rb`.
-/

namespace Sys2Proof.Machine

/-- `ARB a` (44_base_adjust.md R140): the operand is read with the old `rb`. -/
def execArb (a : Operand) (s : State) : Outcome :=
  s.unary a (fun x =>
    match s.chk 0 (s.rb + x) with
    | .error t => .error t
    | .ok v => .ok (s.setBase v))

end Sys2Proof.Machine
end

