-- ==== Sys2Proof/Machine/Flags.lean ====
section
/-!
DEFINITION. There are no flags (10_state.md R25): a comparison's outcome is the word 1 or 0, and a jump tests an operand.
-/

namespace Sys2Proof.Machine

/-- `1 if c else 0` (41_comparison.md R111, R112). -/
def wordOfBool (c : Bool) : Int := if c then 1 else 0

/-- The condition of `JT`: any non-zero word (43_jump.md R131). -/
def nonZero (x : Int) : Bool := decide (x ≠ 0)

/-- The condition of `JF`: exactly the word 0 (43_jump.md R132). -/
def isZero (x : Int) : Bool := decide (x = 0)

end Sys2Proof.Machine
end

