-- ==== Sys2Proof/Machine/Comparison.lean ====
section
/-!
DEFINITION. `LT` and `EQ` (41_comparison.md R110 to R112): exact signed comparison, never an overflow of the result.
-/

namespace Sys2Proof.Machine

/-- `LT a, b, out` (41_comparison.md R111). -/
def execLt (a b out : Operand) (s : State) : Outcome :=
  s.binary a b out (fun x y => .ok (wordOfBool (decide (x < y))))

/-- `EQ a, b, out` (41_comparison.md R112). -/
def execEq (a b out : Operand) (s : State) : Outcome :=
  s.binary a b out (fun x y => .ok (wordOfBool (decide (x = y))))

end Sys2Proof.Machine
end

