-- ==== Sys2Proof/Machine/Halt.lean ====
section
/-!
DEFINITION. `HLT` (45_halt.md R145).
-/

namespace Sys2Proof.Machine

/-- `HLT` (45_halt.md R145): `pc` stays on the instruction. -/
def execHlt (s : State) : Outcome :=
  .next s.halt

end Sys2Proof.Machine
end

