-- ==== Sys2Proof/Machine/InputOutput.lean ====
section
/-!
DEFINITION. `IN` and `OUT` (42_io.md R120 to R122).
-/

namespace Sys2Proof.Machine

/-- `IN out` (42_io.md R121): the destination and its checks first, then the queue; nothing is popped on a fault. -/
def execInp (out : Operand) (s : State) : Outcome :=
  s.conclude
    (match s.dstAddr 1 out with
      | .error t => .error t
      | .ok k =>
        match s.q with
        | [] => .error { cause := .inputUnderflow, info := 0 }
        | v :: rest => .ok (((s.setQueue rest).store k v).advance 2))

/-- `OUT a` (42_io.md R122): latch the value, advance, suspend. -/
def execOut (a : Operand) (s : State) : Outcome :=
  s.unary a (fun x => .ok (s.latchOutput x))

end Sys2Proof.Machine
end

