-- ==== Sys2Proof/Machine/Jump.lean ====
section
/-!
DEFINITION. `JT` and `JF` (43_jump.md R130 to R133).
-/

namespace Sys2Proof.Machine

/-- `JT a, b` (43_jump.md R131). -/
def execJt (a b : Operand) (s : State) : Outcome :=
  s.jumpWhen a b nonZero

/-- `JF a, b` (43_jump.md R132). -/
def execJf (a b : Operand) (s : State) : Outcome :=
  s.jumpWhen a b isZero

end Sys2Proof.Machine
end

