-- ==== Sys2Proof/Machine/Dispatch.lean ====
section
/-!
DEFINITION. One arm per constructor of Instr: each calls its meaning.
-/

namespace Sys2Proof.Machine

def exec (i : Instr) (s : State) : Host.Outcome State Fault Refusal :=
  match i with
  | .add a b out => Sys2Proof.Machine.execAdd a b out s
  | .mul a b out => Sys2Proof.Machine.execMul a b out s
  | .inp out => Sys2Proof.Machine.execInp out s
  | .out a => Sys2Proof.Machine.execOut a s
  | .jt a b => Sys2Proof.Machine.execJt a b s
  | .jf a b => Sys2Proof.Machine.execJf a b s
  | .lt a b out => Sys2Proof.Machine.execLt a b out s
  | .eq a b out => Sys2Proof.Machine.execEq a b out s
  | .arb a => Sys2Proof.Machine.execArb a s
  | .hlt => Sys2Proof.Machine.execHlt s

end Sys2Proof.Machine
end

