-- ==== Sys2Proof/Machine/HostCommands.lean ====
section
/-!
DEFINITION. The host's commands `CONSTRUCT`, `ENQUEUE`, `RUN` (47_host_commands.md R150 to R156).

A command the spec refuses ends in a refusal of its own name: the host has no such move (93_implementation_defined.md
U15, U19, U20; notes/assumptions/10.md).
-/

namespace Sys2Proof.Machine

/-- Every element is a word (47_host_commands.md R151). -/
def allWords (c : Config) (vs : List Int) : Bool := vs.all c.isWord

/-- `CONSTRUCT(program, initial_inputs)` (47_host_commands.md R151, 10_state.md R39). The parameters, the moves to come and
the count of free values are not part of the machine and stay. `OUT_DATA`, `FPC` and `FINFO` become free values
(notes/assumptions/7.md). -/
def hostConstruct (program inputs : List Int) (s : State) : Outcome :=
  if !s.cfg.memCells.allows (program.length + s.cfg.margin) then .refused .programDoesNotFit
  else if !s.cfg.fifoDepth.allows inputs.length then .refused .inputsDoNotFit
  else if !(allWords s.cfg program && allWords s.cfg inputs) then .refused .notAWord
  else .next
    { cfg := s.cfg
      constructed := true
      mem := Memory.image 0 program
      pc := 0
      rb := 0
      q := inputs
      runState := .ready
      outValid := false
      outData := s.cfg.freeWord s.freeIdx
      fcause := .noFault
      fpc := s.cfg.freePc (s.freeIdx + 1)
      finfo := s.cfg.freeWord (s.freeIdx + 2)
      schedule := s.schedule
      freeIdx := s.freeIdx + 3 }

/-- `ENQUEUE(v)` (47_host_commands.md R152): accepted in every `STATE` while `Q` is not full. -/
def hostEnqueue (v : Int) (s : State) : Outcome :=
  if !s.constructed then .refused .commandBeforeConstruct
  else if !s.cfg.isWord v then .refused .notAWord
  else if s.inFull then .refused .fifoFull
  else .next { s with q := s.q ++ [v] }

/-- `OUT_VALID <- 0`, `STATE <- RUN` (47_host_commands.md R153). `OUT_DATA` is then unspecified: a free value (10_state.md
R28, notes/assumptions/7.md). -/
def State.startRun (s : State) : State :=
  { s with
    outValid := false
    outData := s.cfg.freeWord s.freeIdx
    freeIdx := s.freeIdx + 1
    runState := .run }

/-- `RUN` (47_host_commands.md R153, R155, R156). -/
def hostRun (s : State) : Outcome :=
  if !s.constructed then .refused .commandBeforeConstruct
  else
    match s.runState with
    | .ready => .next s.startRun
    | .suspended => .next s.startRun
    | .halted => .next (s.takeFault { cause := .alreadyHalted, info := 0 })
    | .run => .refused .runWhileRunning
    | .faulted => .refused .runWhileFaulted

/-- One command. -/
def hostCommand (c : Command) (s : State) : Outcome :=
  match c with
  | .construct program inputs => hostConstruct program inputs s
  | .enqueue v => hostEnqueue v s
  | .run => hostRun s

/-- The instance after the host has offered a command: a refused command has no effect (47_host_commands.md R150 to R152,
R156). -/
def State.offer (s : State) (c : Command) : State :=
  match hostCommand c s with
  | .next t => t
  | .refused _ => s
  | .fault _ => s

end Sys2Proof.Machine
end

