-- ==== Sys2Proof/Machine/CoreStep.lean ====
section
/-!
DEFINITION. Fetching, one turn of the core, and one move of whichever agent the schedule names (30_encoding.md R84, R85,
00_scope.md R9).
-/

namespace Sys2Proof.Machine

/-- The words of the cells `a, a + 1, ...`, at most `n` of them, as far as Memory reaches (20_memory.md R52). -/
def State.wordsFrom (s : State) (a : Nat) : Nat → List Int
  | 0 => []
  | n + 1 => if s.inMemory a then s.mem.read a :: s.wordsFrom (a + 1) n else []

/-- The words the decoder is given: the longest instruction has four (30_encoding.md R83). -/
def State.fetched (s : State) : List Int := s.wordsFrom s.pc 4

/-- The fault of a word that does not decode (60_exceptions.md R181, R186). -/
def State.rejectTrap (s : State) (r : Reject) : Trap :=
  match r with
  | .noWord => { cause := .addressOutOfRange, info := (s.pc : Int) }
  | .unknownOpcode code => { cause := .unknownOpcode, info := code }

/-- One step of the core in `RUN` (30_encoding.md R85). -/
def runInstruction (s : State) : Outcome :=
  match decode s.cfg s.fetched with
  | .error r => .next (s.takeFault (s.rejectTrap r))
  | .ok i => exec i s

/-- The core's turn. Outside `RUN` the core does not step and all state is kept (60_exceptions.md R197,
notes/assumptions/9.md). -/
def coreStep (s : State) : Outcome :=
  if !s.constructed then .fault .neverConstructed
  else
    match s.runState with
    | .run => runInstruction s
    | .ready => .next s
    | .suspended => .next s
    | .halted => .next s
    | .faulted => .next s

/-- The next move of the schedule, and the schedule without it; after the last move it is the core's turn for ever
(00_scope.md R9, R10, notes/assumptions/8.md). -/
def State.nextEvent (s : State) : Event × List Event :=
  match s.schedule with
  | [] => (.core, [])
  | e :: rest => (e, rest)

/-- One move of one agent. -/
def perform (e : Event) (s : State) : Outcome :=
  match e with
  | .core => coreStep s
  | .host c => hostCommand c s

/-- Words placed in the cells `a, a + 1, ...`, those beyond the last cell left out. -/
def State.placeWords (s : State) (a : Nat) : List Int → State
  | [] => s
  | w :: ws => ((if s.inMemory a then s.store a w else s).placeWords (a + 1) ws)

end Sys2Proof.Machine
end

