-- ==== Sys2Proof/Machine/Step.lean ====
section
/-!
DEFINITION. One step of the machine and its environment, and the placing of an instruction for the host's questions.
-/

namespace Sys2Proof.Machine

/-- One atomic move: the core's turn or one host command, as the schedule says (00_scope.md R9, 47_host_commands.md R150). -/
def step (s : State) : Host.Outcome State Fault Refusal :=
  perform s.nextEvent.1 { s with schedule := s.nextEvent.2 }

/-- `s` with the instruction whose bits are `w` in the cells from `pc` on, in `RUN`, the next move the core's: what a
`CONSTRUCT` of that program and a `RUN` come to (notes/assumptions/6.md, notes/assumptions/15.md). -/
def State.withFetchWord (s : State) (nbits w : Nat) : State :=
  { s.placeWords s.pc (tableWords s.cfg.cellBits nbits w) with
    constructed := true
    runState := .run
    schedule := [] }

end Sys2Proof.Machine
end

