-- ==== Sys2Proof/Machine/HostProcedures.lean ====
section
/-!
DEFINITION. The host's procedures over one instance (47_host_commands.md R154, R157) and over a ring of instances (R165 to
R171). They are host software, not part of the block (00_scope.md R4).

A run may never end (R154), so a procedure takes the number of core steps it may wait for, and says `unfinished` when
they are spent (notes/assumptions/17.md). A procedure is the instance's only host: it does not read the schedule
(notes/assumptions/18.md).
-/

namespace Sys2Proof.Machine

/-- What a run primitive's call returns (47_host_commands.md R154). -/
inductive RunResult where
  /-- `Output(int)`: `SUSPENDED`, the value in `OUT_DATA`. -/
  | output (v : Int) (s : State)
  /-- `Halted`, a normal value. -/
  | halted (s : State)
  /-- An error: the fault record is in the state. -/
  | faulted (s : State)
  /-- The steps are spent and the instance is still in `RUN`. -/
  | unfinished (s : State)
  /-- The command was refused: the host has no such move (47_host_commands.md R150, R156). -/
  | refused (r : Refusal)
deriving DecidableEq, Repr

/-- Waiting until `STATE != RUN`, for at most `fuel` core steps. -/
def waitWhileRunning : Nat → State → State
  | 0, s => s
  | fuel + 1, s =>
    match s.runState with
    | .run =>
      match coreStep s with
      | .next t => waitWhileRunning fuel t
      | .fault _ => s
      | .refused _ => s
    | .ready => s
    | .suspended => s
    | .halted => s
    | .faulted => s

/-- What the host reads when it has waited (47_host_commands.md R154). `READY` is not reached after a `RUN`. -/
def runResultOf (s : State) : RunResult :=
  match s.runState with
  | .suspended => .output s.outData s
  | .halted => .halted s
  | .faulted => .faulted s
  | .run => .unfinished s
  | .ready => .unfinished s

/-- `run_until_output_or_halt()`, also `next_output()`: `RUN`, then wait until `STATE != RUN` (47_host_commands.md R150, R154,
R157). -/
def runUntilOutputOrHalt (fuel : Nat) (s : State) : RunResult :=
  match hostRun s with
  | .next t => runResultOf (waitWhileRunning fuel t)
  | .refused r => .refused r
  | .fault _ => .refused .commandBeforeConstruct

/-- What `collect_all_outputs` comes to (47_host_commands.md R157). -/
inductive Collected where
  | outputs (outs : List Int) (s : State)
  /-- "fail with the fault record" -/
  | failed (s : State)
  | unfinished (outs : List Int) (s : State)
  | refused (r : Refusal)
deriving DecidableEq, Repr

/-- `collect_all_outputs()` (47_host_commands.md R157), at most `runs` runs of at most `fuel` steps, `outs` the outputs
so far. -/
def collectAllOutputs (fuel : Nat) : Nat → List Int → State → Collected
  | 0, outs, s => .unfinished outs s
  | runs + 1, outs, s =>
    match runUntilOutputOrHalt fuel s with
    | .output v t => collectAllOutputs fuel runs (outs ++ [v]) t
    | .halted t => .outputs outs t
    | .faulted t => .failed t
    | .unfinished t => .unfinished outs t
    | .refused r => .refused r

/-! ## The ring (47_host_commands.md R165 to R171) -/

/-- A ring between two visits: its instances, the last signal, whose turn it is. -/
structure Ring where
  insts : List State
  signal : Int
  turn : Nat
deriving DecidableEq, Repr

/-- What a visit, or the whole loop, comes to. -/
inductive RingResult where
  /-- The loop goes on (after a visit); the visits allowed are spent (after the loop). -/
  | going (r : Ring)
  /-- The final instance has halted: the result (R170). -/
  | finished (signal : Int) (r : Ring)
  /-- An instance faulted: fail with its fault record (R167). -/
  | failed (turn : Nat) (s : State)
  /-- An instance is still in `RUN` when the steps are spent. -/
  | unfinished (turn : Nat) (s : State)
  /-- A command was refused, or there is no instance: the host has no such move. -/
  | refused
deriving DecidableEq, Repr

/-- A fresh instance of a given configuration, `CONSTRUCT(program, [v])` issued to it (R166). Every instance draws its
unspecified registers from the same free values, so two fresh instances hold equal `OUT_DATA`, `FPC` and `FINFO`: the model's
choice, R39 leaves them unspecified in each (DESIGN CHOICE, unsafe, notes/assumptions/20.md). -/
def ringInstance (c : Config) (program : List Int) (v : Int) : Outcome :=
  hostConstruct program [v] { State.reset with cfg := c }

/-- The instances of a ring: instance `i` is `CONSTRUCT(program, [config[i]])` (R166); none where a command is refused. -/
def ringInstances (c : Config) (program : List Int) : List Int → Option (List State)
  | [] => some []
  | v :: vs =>
    match ringInstance c program v, ringInstances c program vs with
    | .next s, some ss => some (s :: ss)
    | _, _ => none

/-- The set-up of the ring (R166, R168): the seed is the first signal. -/
def ringSetup (c : Config) (program config : List Int) (seed : Int) : Option Ring :=
  match ringInstances c program config with
  | some insts => some { insts := insts, signal := seed, turn := 0 }
  | none => none

/-- The ring after a visit that left instance `turn` in state `s`, `signal` the last signal: the next turn (R167). -/
def Ring.afterVisit (r : Ring) (s : State) (signal : Int) : Ring :=
  { insts := r.insts.set r.turn s, signal := signal, turn := (r.turn + 1) % r.insts.length }

/-- `ENQUEUE(signal)`, then `RUN` and wait (R167). -/
def feedThenRun (fuel : Nat) (signal : Int) (s : State) : RunResult :=
  match hostEnqueue signal s with
  | .next t => runUntilOutputOrHalt fuel t
  | .refused e => .refused e
  | .fault _ => .refused .commandBeforeConstruct

/-- One visit (R167): a halted instance is skipped (R170). -/
def Ring.visit (fuel : Nat) (r : Ring) : RingResult :=
  match r.insts[r.turn]? with
  | none => .refused
  | some s =>
    if s.runState = .halted then .going (r.afterVisit s r.signal)
    else
      match feedThenRun fuel r.signal s with
      | .output v t => .going (r.afterVisit t v)
      | .halted t =>
        if r.turn + 1 = r.insts.length then .finished r.signal (r.afterVisit t r.signal)
        else .going (r.afterVisit t r.signal)
      | .faulted t => .failed r.turn t
      | .unfinished t => .unfinished r.turn t
      | .refused _ => .refused

/-- The loop (R167), at most `visits` visits of at most `fuel` core steps each. -/
def Ring.loop (fuel : Nat) : Nat → Ring → RingResult
  | 0, r => .going r
  | visits + 1, r =>
    match r.visit fuel with
    | .going r' => Ring.loop fuel visits r'
    | .finished v r' => .finished v r'
    | .failed i s => .failed i s
    | .unfinished i s => .unfinished i s
    | .refused => .refused

end Sys2Proof.Machine
end

