-- ==== Sys2Proof/Machine/Reference.lean ====
section
/-!
DEFINITION. The spec's own pseudocode of one step, line by line, apart from the decoder and the meanings: `MemRead`,
`SrcVal`, `DstAddr`, `Decode` (30_encoding.md R80, R81, R84), the Operation of each instruction's rule, and R85. Each
parameter word is read from Memory when its operand's turn comes. A statement says that the machine's step is this one.
-/

namespace Sys2Proof.Machine.Reference

/-- `MemRead(a, 1)` (00_scope.md R12, 20_memory.md R52). -/
def memRead (s : State) (a : Int) : Except Trap Int :=
  if a < 0 ∨ s.cfg.memCells.exceeds a.toNat = false then
    .error { cause := .addressOutOfRange, info := a }
  else .ok (s.mem.read a.toNat)

/-- `SrcVal(n)` (30_encoding.md R80), `w` the instruction word. -/
def srcVal (s : State) (w n : Nat) : Except Trap Int := do
  let p ← memRead s ((s.pc : Int) + n)
  match digit w (n + 1) with
  | 0 => memRead s p
  | 1 => return p
  | 2 =>
    let ea := s.rb + p
    if s.cfg.isWord ea then memRead s ea
    else throw { cause := .arithmeticOverflow, info := n }
  | _ => throw { cause := .reservedMode, info := n }

/-- The last two lines of `DstAddr(n)` (30_encoding.md R81). -/
def rangeChecked (s : State) (a : Int) : Except Trap Nat :=
  if a < 0 ∨ s.cfg.memCells.exceeds a.toNat = false then
    .error { cause := .addressOutOfRange, info := a }
  else .ok a.toNat

/-- `DstAddr(n)` (30_encoding.md R81). -/
def dstAddr (s : State) (w n : Nat) : Except Trap Nat := do
  let p ← memRead s ((s.pc : Int) + n)
  match digit w (n + 1) with
  | 0 => rangeChecked s p
  | 1 => throw { cause := .invalidDestinationMode, info := n }
  | 2 =>
    let a := s.rb + p
    if s.cfg.isWord a then rangeChecked s a
    else throw { cause := .arithmeticOverflow, info := n }
  | _ => throw { cause := .reservedMode, info := n }

/-- "A fully resolved Instruction value" (30_encoding.md R84). -/
inductive Resolved where
  | add (a b : Int) (d : Nat)
  | mul (a b : Int) (d : Nat)
  | inp (d : Nat)
  | out (a : Int)
  | jt (a b : Int)
  | jf (a b : Int)
  | lt (a b : Int) (d : Nat)
  | eq (a b : Int) (d : Nat)
  | arb (a : Int)
  | hlt
deriving DecidableEq, Repr

/-- `Decode()` (30_encoding.md R84). -/
def decode (s : State) : Except Trap Resolved := do
  let w ← memRead s s.pc
  if w < 0 then throw { cause := .unknownOpcode, info := -(((-w).toNat % 100 : Nat) : Int) }
  else
    let n := w.toNat
    let op := n % 100
    if op = s.cfg.opc.add then
      let a ← srcVal s n 1
      let b ← srcVal s n 2
      let d ← dstAddr s n 3
      return .add a b d
    else if op = s.cfg.opc.mul then
      let a ← srcVal s n 1
      let b ← srcVal s n 2
      let d ← dstAddr s n 3
      return .mul a b d
    else if op = s.cfg.opc.inp then
      let d ← dstAddr s n 1
      return .inp d
    else if op = s.cfg.opc.out then
      let a ← srcVal s n 1
      return .out a
    else if op = s.cfg.opc.jt then
      let a ← srcVal s n 1
      let b ← srcVal s n 2
      return .jt a b
    else if op = s.cfg.opc.jf then
      let a ← srcVal s n 1
      let b ← srcVal s n 2
      return .jf a b
    else if op = s.cfg.opc.lt then
      let a ← srcVal s n 1
      let b ← srcVal s n 2
      let d ← dstAddr s n 3
      return .lt a b d
    else if op = s.cfg.opc.eq then
      let a ← srcVal s n 1
      let b ← srcVal s n 2
      let d ← dstAddr s n 3
      return .eq a b d
    else if op = s.cfg.opc.arb then
      let a ← srcVal s n 1
      return .arb a
    else if op = s.cfg.opc.hlt then return .hlt
    else throw { cause := .unknownOpcode, info := (op : Int) }

/-- The Operation of each instruction's rule, on resolved operands (40_arithmetic.md R101, R102, 41_comparison.md R111,
R112, 42_io.md R121, R122, 43_jump.md R131, R132, 44_base_adjust.md R140, 45_halt.md R145). -/
def execute (s : State) : Resolved → Except Trap State
  | .add a b d =>
    if s.cfg.isWord (a + b) then .ok { s with mem := s.mem.write d (a + b), pc := s.pc + 4 }
    else .error { cause := .arithmeticOverflow, info := 0 }
  | .mul a b d =>
    if s.cfg.isWord (a * b) then .ok { s with mem := s.mem.write d (a * b), pc := s.pc + 4 }
    else .error { cause := .arithmeticOverflow, info := 0 }
  | .inp d =>
    match s.q with
    | [] => .error { cause := .inputUnderflow, info := 0 }
    | v :: rest => .ok { s with mem := s.mem.write d v, q := rest, pc := s.pc + 2 }
  | .out a => .ok { s with outData := a, outValid := true, pc := s.pc + 2, runState := .suspended }
  | .jt a b =>
    if a = 0 then .ok { s with pc := s.pc + 3 }
    else if b < 0 ∨ s.cfg.memCells.exceeds b.toNat = false then .error { cause := .addressOutOfRange, info := b }
    else .ok { s with pc := b.toNat }
  | .jf a b =>
    if a = 0 then
      if b < 0 ∨ s.cfg.memCells.exceeds b.toNat = false then .error { cause := .addressOutOfRange, info := b }
      else .ok { s with pc := b.toNat }
    else .ok { s with pc := s.pc + 3 }
  | .lt a b d => .ok { s with mem := s.mem.write d (if a < b then 1 else 0), pc := s.pc + 4 }
  | .eq a b d => .ok { s with mem := s.mem.write d (if a = b then 1 else 0), pc := s.pc + 4 }
  | .arb a =>
    if s.cfg.isWord (s.rb + a) then .ok { s with rb := s.rb + a, pc := s.pc + 2 }
    else .error { cause := .arithmeticOverflow, info := 0 }
  | .hlt => .ok { s with runState := .halted }

/-- One step of the core in `RUN` (30_encoding.md R85); `raise` is 00_scope.md R12, 60_exceptions.md R190. -/
def step (s : State) : State :=
  match decode s with
  | .error t => { s with fcause := t.cause, fpc := s.pc, finfo := t.info, runState := .faulted }
  | .ok i =>
    match execute s i with
    | .error t => { s with fcause := t.cause, fpc := s.pc, finfo := t.info, runState := .faulted }
    | .ok u => u

end Sys2Proof.Machine.Reference
end

