-- ==== Sys2Proof/Safety.lean ====
section
/-!
DEFINITION. What claims call a well-formed state, how a run ends, and which transitions of `STATE` the spec allows.
-/

namespace Sys2Proof.Machine

/-- Every listed cell exists and holds a word (20_memory.md R51, R52, 00_scope.md R8). -/
def Memory.inBounds (c : Config) (m : Memory) : Bool :=
  m.all (fun e => c.memCells.exceeds e.1 && c.isWord e.2)

/-- What holds of a constructed instance between any two steps: the parameters legal (00_scope.md R7), Memory in canonical
form and in bounds, every register in its range (00_scope.md R8, 10_state.md R22, R29, R30), `OUT_VALID = 1` exactly
in `SUSPENDED` (10_state.md R28) and `FCAUSE != 0` exactly in `FAULTED` (10_state.md R29). -/
structure State.Inv (s : State) : Prop where
  cfg_wf : s.cfg.wf = true
  constructed : s.constructed = true
  mem_wf : s.mem.wf = true
  mem_inBounds : s.mem.inBounds s.cfg = true
  pc_inRange : s.cfg.memCells.allows s.pc = true
  rb_word : s.cfg.isWord s.rb = true
  q_words : s.q.all s.cfg.isWord = true
  q_fits : s.cfg.fifoDepth.allows s.q.length = true
  outData_word : s.cfg.isWord s.outData = true
  fpc_inRange : s.cfg.memCells.allows s.fpc = true
  finfo_word : s.cfg.isWord s.finfo = true
  outValid_iff : s.outValid = true ↔ s.runState = .suspended
  fcause_iff : s.fcause ≠ .noFault ↔ s.runState = .faulted

/-- The good end of a lifetime (70_reset_and_hazards.md R223). -/
def State.final (s : State) : Bool := decide (s.runState = .halted) && decide (s.fcause = .noFault)

/-- The instance has gone wrong: it is never final (70_reset_and_hazards.md R223, 60_exceptions.md R192). -/
def State.goneWrong (s : State) : Bool := decide (s.runState = .faulted)

/-- The transitions of `STATE` on the host's commands (10_state.md R27). -/
def transitionByCommand : RunState → Command → RunState → Bool
  | _, .construct _ _, u => decide (u = .ready)
  | r, .enqueue _, u => decide (u = r)
  | .ready, .run, u => decide (u = .run)
  | .suspended, .run, u => decide (u = .run)
  | .halted, .run, u => decide (u = .faulted)
  | .run, .run, u => decide (u = .run)
  | .faulted, .run, u => decide (u = .faulted)

/-- The value of `STATE` after an instruction that completes (10_state.md R27). -/
def stateAfter : Instr → RunState
  | .out _ => .suspended
  | .hlt => .halted
  | .add _ _ _ => .run
  | .mul _ _ _ => .run
  | .inp _ => .run
  | .jt _ _ => .run
  | .jf _ _ => .run
  | .lt _ _ _ => .run
  | .eq _ _ _ => .run
  | .arb _ => .run

/-- The fault that the operands from number `n` on raise when they are resolved in order, each completely before the
next (60_exceptions.md R189, 3); none if all resolve. -/
def State.operandFault (s : State) : Nat → List (OperandKind × Operand) → Option Trap
  | _, [] => none
  | n, (.src, o) :: os =>
    match s.srcVal n o with
    | .error t => some t
    | .ok _ => s.operandFault (n + 1) os
  | n, (.dst, o) :: os =>
    match s.dstAddr n o with
    | .error t => some t
    | .ok _ => s.operandFault (n + 1) os

/-- The parameters, whether the instance is constructed, the moves to come and the count of free values are the same. -/
def SameEnvironment (s t : State) : Prop :=
  t.cfg = s.cfg ∧ t.constructed = s.constructed ∧ t.schedule = s.schedule ∧ t.freeIdx = s.freeIdx

/-- The fault record and `STATE` are as before, or a fault was taken at `s.pc` and nothing was stored (60_exceptions.md
R190, R191). -/
def KeptOrFaulted (s t : State) : Prop :=
  (t.runState = s.runState ∧ t.fcause = s.fcause ∧ t.fpc = s.fpc ∧ t.finfo = s.finfo) ∨
  (t.runState = .faulted ∧ t.fpc = s.pc ∧ t.pc = s.pc ∧ t.mem = s.mem)

/-- `CONSTRUCT(program, inputs)` fits this instance (47_host_commands.md R151). -/
def State.fits (s : State) (program inputs : List Int) : Prop :=
  s.cfg.memCells.allows (program.length + s.cfg.margin) = true ∧
  s.cfg.fifoDepth.allows inputs.length = true ∧
  (∀ v ∈ program, s.cfg.isWord v = true) ∧ (∀ v ∈ inputs, s.cfg.isWord v = true)

end Sys2Proof.Machine
end

