-- ==== Sys2Proof/Certificates/Slice0/Obligations.lean ====
section
/-!
DEFINITION. The statements for the provers, one `def Obligations.<Name> : Prop` each, in the order of OBLIGATIONS.json.
-/

open Sys2Proof Sys2Proof.Machine

/-- State.reset holds the value the spec gives for every piece of state it gives one for. (10_state.md R39;
70_reset_and_hazards.md R220; 30_encoding.md R75.) Model's choice: notes/assumptions/4.md, notes/assumptions/6.md. -/
def Obligations.ResetHoldsTheSpecifiedValues : Prop :=
  State.reset.constructed = true ∧
  (∀ a, State.reset.mem.read a = 0) ∧
  State.reset.pc = 0 ∧ State.reset.rb = 0 ∧ State.reset.q = [] ∧
  State.reset.runState = .ready ∧ State.reset.outValid = false ∧ State.reset.fcause = .noFault ∧
  State.reset.cfg = Config.default

/-- State.reset satisfies the invariant. (10_state.md sections 1 to 9, 16; 00_scope.md section 5.) Model's choice:
notes/assumptions/5.md. -/
def Obligations.ResetSatisfiesTheInvariant : Prop :=
  State.reset.Inv

/-- CONSTRUCT leaves every piece of state at its reset value. (R39.) -/
def Obligations.ConstructSetsEveryRegister : Prop :=
  (∀ (s : State) (program inputs : List Int), s.fits program inputs →
    ∃ t, hostCommand (.construct program inputs) s = .next t ∧
      (∀ a, a < program.length → t.mem.read a = program.getD a 0) ∧
      (∀ a, program.length ≤ a → t.mem.read a = 0) ∧
      t.pc = 0 ∧ t.rb = 0 ∧ t.q = inputs ∧ t.runState = .ready ∧ t.outValid = false ∧ t.fcause = .noFault ∧
      t.constructed = true) ∧
  (∀ (s : State), s.constructed = false →
    (∀ v, ∃ r, hostCommand (.enqueue v) s = .refused r) ∧ ∃ r, hostCommand .run s = .refused r)

/-- CONSTRUCT is refused exactly when program, inputs or an element does not fit. (47_host_commands.md R151.) -/
def Obligations.ConstructIsRefusedExactlyWhenItDoesNotFit : Prop :=
  ∀ (s : State) (program inputs : List Int),
    ((∃ r, hostCommand (.construct program inputs) s = .refused r) ↔ ¬ s.fits program inputs) ∧
    (¬ s.fits program inputs → s.offer (.construct program inputs) = s) ∧
    (s.fits program inputs → (s.offer (.construct program inputs)).mem.wf = true)

/-- ENQUEUE appends one word at the tail in every STATE, and is refused when Q is full. (47_host_commands.md R152;
10_state.md R30, R31.) -/
def Obligations.EnqueueAppendsUnlessFull : Prop :=
  ∀ (s : State) (v : Int), s.constructed = true → s.cfg.isWord v = true →
    (s.cfg.fifoDepth.exceeds s.q.length = true →
      hostCommand (.enqueue v) s = .next { s with q := s.q ++ [v] }) ∧
    (s.cfg.fifoDepth.exceeds s.q.length = false →
      hostCommand (.enqueue v) s = .refused .fifoFull ∧ s.offer (.enqueue v) = s) ∧
    (s.cfg.fifoDepth = .inf → s.inFull = false)

/-- RUN in READY or SUSPENDED clears OUT_VALID, sets STATE to RUN and changes nothing else. (47_host_commands.md R153.) -/
def Obligations.RunStartsTheCore : Prop :=
  ∀ (s : State), s.constructed = true → (s.runState = .ready ∨ s.runState = .suspended) →
    ∃ t, hostCommand .run s = .next t ∧ t.outValid = false ∧ t.runState = .run ∧
      t.mem = s.mem ∧ t.pc = s.pc ∧ t.rb = s.rb ∧ t.q = s.q ∧
      t.fcause = s.fcause ∧ t.fpc = s.fpc ∧ t.finfo = s.finfo ∧
      t.cfg = s.cfg ∧ t.constructed = s.constructed ∧ t.schedule = s.schedule

/-- RUN in HALTED faults with AlreadyHalted and executes nothing. (R155.) -/
def Obligations.RunAfterHaltFaultsWithAlreadyHalted : Prop :=
  Cause.alreadyHalted.code = 4 ∧
  ∀ (s : State), s.constructed = true → s.runState = .halted →
    hostCommand .run s =
      .next { s with fcause := .alreadyHalted, fpc := s.pc, finfo := 0, runState := .faulted }

/-- RUN in RUN and RUN in FAULTED are refused and change nothing. (R156.) -/
def Obligations.RunWhileRunningOrFaultedIsRefused : Prop :=
  ∀ (s : State), s.constructed = true →
    (s.runState = .run → hostCommand .run s = .refused .runWhileRunning ∧ s.offer .run = s) ∧
    (s.runState = .faulted → hostCommand .run s = .refused .runWhileFaulted ∧ s.offer .run = s)

/-- The core of an instance never constructed has no step. (10_state.md R39; 93_implementation_defined.md U19.) Model's
choice: notes/assumptions/11.md. -/
def Obligations.UnconstructedCoreStops : Prop :=
  ∀ (s : State), s.constructed = false → coreStep s = .fault .neverConstructed

/-- The codes of STATE and FCAUSE, the FIFO's status bits and the output ports are those of the spec's tables.
(10_state.md R26, R31, R37; 60_exceptions.md R180.) -/
def Obligations.StatusCodesAreTheTables : Prop :=
  [RunState.ready, .run, .suspended, .halted, .faulted].map RunState.code = [0, 1, 2, 3, 4] ∧
  [Cause.noFault, .unknownOpcode, .invalidDestinationMode, .inputUnderflow, .alreadyHalted, .reservedMode,
    .addressOutOfRange, .arithmeticOverflow].map Cause.code = [0, 1, 2, 3, 4, 5, 6, 7] ∧
  ∀ s : State, (s.inEmpty = true ↔ s.q = []) ∧
    (∀ n, s.cfg.fifoDepth = .finite n → s.q.length ≤ n → (s.inFull = true ↔ s.q.length = n)) ∧
    (s.cfg.fifoDepth = .inf → s.inFull = false) ∧
    s.ports.inReady = !s.inFull ∧ s.ports.inEmpty = s.inEmpty ∧
    s.ports.state = s.runState.code ∧ s.ports.fcause = s.fcause.code ∧ s.ports.outValid = s.outValid ∧
    s.ports.outData = s.outData ∧ s.ports.fpc = s.fpc ∧ s.ports.finfo = s.finfo

/-- Decoding the words of an instruction gives the instruction back. (30_encoding.md sections 1, 2, 3, 5.) -/
def Obligations.DecodeOfEncodeIsTheInstruction : Prop :=
  ∀ (c : Config) (i : Instr) (rest : List Int),
    c.wf = true → i.complete c = true → decode c (encode c i ++ rest) = .ok i

/-- Digits of W that belong to no operand change nothing. (R82.) -/
def Obligations.DigitsOfNoOperandAreIgnored : Prop :=
  ∀ (c : Config) (w w' : Int) (params : List Int) (i : Instr),
    0 ≤ w → 0 ≤ w' → w'.toNat % 100 = w.toNat % 100 →
    decode c (w :: params) = .ok i →
    (∀ n, 1 ≤ n → n ≤ i.operands.length → digit w'.toNat (n + 1) = digit w.toNat (n + 1)) →
    decode c (w' :: params) = .ok i

/-- A negative instruction word raises UnknownOpcode with FINFO = W rem 100. (R74.) -/
def Obligations.NegativeWordRaisesUnknownOpcode : Prop :=
  ∀ (s : State) (w : Int), s.constructed = true → s.runState = .run →
    s.memRead s.pc = .ok w → w < 0 →
    coreStep s = .next { s with
      fcause := .unknownOpcode, fpc := s.pc, finfo := -((-w) % 100), runState := .faulted } ∧
    -99 ≤ -((-w) % 100) ∧ -((-w) % 100) ≤ 0

/-- An op that is none of the ten raises UnknownOpcode; by default 00 and 10 to 98. (R77.) -/
def Obligations.UnknownOpcodeIsIllegal : Prop :=
  (∀ (s : State) (w : Int), s.constructed = true → s.runState = .run →
    s.memRead s.pc = .ok w → 0 ≤ w → (w.toNat % 100) ∉ s.cfg.opc.toList →
    coreStep s = .next { s with
      fcause := .unknownOpcode, fpc := s.pc, finfo := w % 100, runState := .faulted }) ∧
  (∀ op : Nat, op < 100 → (op ∉ OpcodeNumbers.default.toList ↔ op = 0 ∨ (10 ≤ op ∧ op ≤ 98)))

/-- A fetch at pc outside Memory raises AddressOutOfRange(pc). (60_exceptions.md R186; 20_memory.md R52; 10_state.md
R22.) -/
def Obligations.FetchBeyondMemoryFaults : Prop :=
  ∀ (s : State), s.constructed = true → s.runState = .run → s.cfg.memCells.exceeds s.pc = false →
    coreStep s = .next { s with
      fcause := .addressOutOfRange, fpc := s.pc, finfo := (s.pc : Int), runState := .faulted }

/-- The spec's ten worked encodings decode to the instructions it names. (R96.) -/
def Obligations.WorkedEncodingsDecode : Prop :=
  decode Config.default [3, 26] = .ok (.inp ⟨.position, some 26⟩) ∧
  decode Config.default [1001, 26, -4, 26] =
    .ok (.add ⟨.position, some 26⟩ ⟨.immediate, some (-4)⟩ ⟨.position, some 26⟩) ∧
  decode Config.default [1002, 27, 2, 27] =
    .ok (.mul ⟨.position, some 27⟩ ⟨.immediate, some 2⟩ ⟨.position, some 27⟩) ∧
  decode Config.default [1, 27, 26, 27] =
    .ok (.add ⟨.position, some 27⟩ ⟨.position, some 26⟩ ⟨.position, some 27⟩) ∧
  decode Config.default [4, 27] = .ok (.out ⟨.position, some 27⟩) ∧
  decode Config.default [1005, 28, 6] = .ok (.jt ⟨.position, some 28⟩ ⟨.immediate, some 6⟩) ∧
  decode Config.default [99] = .ok .hlt ∧
  decode Config.default [21107, 3, 4, -2] =
    .ok (.lt ⟨.immediate, some 3⟩ ⟨.immediate, some 4⟩ ⟨.relative, some (-2)⟩) ∧
  decode Config.default [204, -1] = .ok (.out ⟨.relative, some (-1)⟩) ∧
  decode Config.default [109, 19] = .ok (.arb ⟨.immediate, some 19⟩)

/-- A step that is the core's turn runs the instruction decoded at pc. (30_encoding.md R85; 00_scope.md R9.) -/
def Obligations.StepRunsTheDecodedInstruction : Prop :=
  ∀ (s : State) (i : Instr), s.constructed = true → s.runState = .run → s.nextEvent.1 = .core →
    decode s.cfg s.fetched = .ok i →
    step s = exec i { s with schedule := s.nextEvent.2 }

/-- An instruction whose words stand in memory at pc is the one the core executes. (30_encoding.md sections 1, 2, 5;
20_memory.md R61.) -/
def Obligations.InstructionInMemoryIsExecuted : Prop :=
  ∀ (s : State) (i : Instr), s.cfg.wf = true → s.constructed = true → s.runState = .run →
    i.complete s.cfg = true →
    (∀ k, k < i.width → s.mem.read (s.pc + k) = (encode s.cfg i).getD k 0) →
    s.cfg.memCells.exceeds (s.pc + (i.width - 1)) = true →
    coreStep s = exec i s

/-- The core's step is the spec's pseudocode of Decode and the ten Operations. (R84; R85.) -/
def Obligations.CoreStepIsTheSpecsPseudocode : Prop :=
  ∀ (s : State), s.constructed = true → s.runState = .run → coreStep s = .next (Reference.step s)

/-- SrcVal(n): the multiplexer between parameter word, the cell it addresses and the cell at rb plus it.
(30_encoding.md R80.) -/
def Obligations.SourceOperandByMode : Prop :=
  ∀ (s : State) (n : Nat) (p : Int),
    (∀ m, s.srcVal n ⟨m, none⟩ = .error ⟨.addressOutOfRange, (s.pc : Int) + n⟩) ∧
    (s.inMemory p = true → s.srcVal n ⟨.position, some p⟩ = .ok (s.mem.read p.toNat)) ∧
    (s.inMemory p = false → s.srcVal n ⟨.position, some p⟩ = .error ⟨.addressOutOfRange, p⟩) ∧
    s.srcVal n ⟨.immediate, some p⟩ = .ok p ∧
    (s.cfg.isWord (s.rb + p) = false → s.srcVal n ⟨.relative, some p⟩ = .error ⟨.arithmeticOverflow, n⟩) ∧
    (s.cfg.isWord (s.rb + p) = true → s.inMemory (s.rb + p) = true →
      s.srcVal n ⟨.relative, some p⟩ = .ok (s.mem.read (s.rb + p).toNat)) ∧
    (s.cfg.isWord (s.rb + p) = true → s.inMemory (s.rb + p) = false →
      s.srcVal n ⟨.relative, some p⟩ = .error ⟨.addressOutOfRange, s.rb + p⟩) ∧
    (∀ k, s.srcVal n ⟨.reserved k, some p⟩ = .error ⟨.reservedMode, n⟩)

/-- DstAddr(n): position p or relative rb + p, range checked; immediate is invalid. (30_encoding.md R81.) -/
def Obligations.DestinationOperandByMode : Prop :=
  ∀ (s : State) (n : Nat) (p : Int),
    (∀ m, s.dstAddr n ⟨m, none⟩ = .error ⟨.addressOutOfRange, (s.pc : Int) + n⟩) ∧
    (s.inMemory p = true → s.dstAddr n ⟨.position, some p⟩ = .ok p.toNat) ∧
    (s.inMemory p = false → s.dstAddr n ⟨.position, some p⟩ = .error ⟨.addressOutOfRange, p⟩) ∧
    s.dstAddr n ⟨.immediate, some p⟩ = .error ⟨.invalidDestinationMode, n⟩ ∧
    (s.cfg.isWord (s.rb + p) = false → s.dstAddr n ⟨.relative, some p⟩ = .error ⟨.arithmeticOverflow, n⟩) ∧
    (s.cfg.isWord (s.rb + p) = true → s.inMemory (s.rb + p) = true →
      s.dstAddr n ⟨.relative, some p⟩ = .ok (s.rb + p).toNat) ∧
    (s.cfg.isWord (s.rb + p) = true → s.inMemory (s.rb + p) = false →
      s.dstAddr n ⟨.relative, some p⟩ = .error ⟨.addressOutOfRange, s.rb + p⟩) ∧
    (∀ k, s.dstAddr n ⟨.reserved k, some p⟩ = .error ⟨.reservedMode, n⟩)

/-- Every instruction takes the first fault of its operands, operand 1 first, and has no other effect.
(60_exceptions.md R189, R190; 20_memory.md R57.) -/
def Obligations.FirstOperandFaultIsTaken : Prop :=
  ∀ (i : Instr) (s : State) (tr : Trap), s.operandFault 1 i.operands = some tr →
    exec i s = .next { s with fcause := tr.cause, fpc := s.pc, finfo := tr.info, runState := .faulted }

/-- ADD writes the sum to the destination cell, advances pc by 4 and changes nothing else. (40_arithmetic.md R101.) -/
def Obligations.AddWritesTheSum : Prop :=
  ∀ (s : State) (a b d : Operand) (x y : Int) (k : Nat),
    s.srcVal 1 a = .ok x → s.srcVal 2 b = .ok y → s.dstAddr 3 d = .ok k →
    s.cfg.isWord (x + y) = true →
    exec (.add a b d) s = .next { s with mem := s.mem.write k (x + y), pc := s.pc + 4 }

/-- MUL writes the product to the destination cell, advances pc by 4 and changes nothing else. (40_arithmetic.md R102.) -/
def Obligations.MulWritesTheProduct : Prop :=
  ∀ (s : State) (a b d : Operand) (x y : Int) (k : Nat),
    s.srcVal 1 a = .ok x → s.srcVal 2 b = .ok y → s.dstAddr 3 d = .ok k →
    s.cfg.isWord (x * y) = true →
    exec (.mul a b d) s = .next { s with mem := s.mem.write k (x * y), pc := s.pc + 4 }

/-- LT writes 1 if a < b, else 0, for every pair of words. (41_comparison.md R110, R111.) -/
def Obligations.LessThanWritesOneOrZero : Prop :=
  ∀ (s : State) (a b d : Operand) (x y : Int) (k : Nat),
    s.srcVal 1 a = .ok x → s.srcVal 2 b = .ok y → s.dstAddr 3 d = .ok k →
    exec (.lt a b d) s = .next { s with mem := s.mem.write k (if x < y then 1 else 0), pc := s.pc + 4 }

/-- EQ writes 1 if a = b, else 0, for every pair of words. (41_comparison.md R110, R112.) -/
def Obligations.EqualsWritesOneOrZero : Prop :=
  ∀ (s : State) (a b d : Operand) (x y : Int) (k : Nat),
    s.srcVal 1 a = .ok x → s.srcVal 2 b = .ok y → s.dstAddr 3 d = .ok k →
    exec (.eq a b d) s = .next { s with mem := s.mem.write k (if x = y then 1 else 0), pc := s.pc + 4 }

/-- A result that is a word is exact; one that is not raises ArithmeticOverflow(0) and writes nothing. (R104.) -/
def Obligations.ResultsAreExactOrFault : Prop :=
  (∀ (s : State) (a b d : Operand) (x y : Int) (k : Nat), s.mem.wf = true →
    s.srcVal 1 a = .ok x → s.srcVal 2 b = .ok y → s.dstAddr 3 d = .ok k →
    (s.cfg.isWord (x + y) = true → ∃ t, exec (.add a b d) s = .next t ∧ t.mem.read k = x + y) ∧
    (s.cfg.isWord (x + y) = false → exec (.add a b d) s =
      .next { s with fcause := .arithmeticOverflow, fpc := s.pc, finfo := 0, runState := .faulted }) ∧
    (s.cfg.isWord (x * y) = true → ∃ t, exec (.mul a b d) s = .next t ∧ t.mem.read k = x * y) ∧
    (s.cfg.isWord (x * y) = false → exec (.mul a b d) s =
      .next { s with fcause := .arithmeticOverflow, fpc := s.pc, finfo := 0, runState := .faulted })) ∧
  (∀ (s : State) (a : Operand) (x : Int), s.srcVal 1 a = .ok x →
    (s.cfg.isWord (s.rb + x) = true → ∃ t, exec (.arb a) s = .next t ∧ t.rb = s.rb + x) ∧
    (s.cfg.isWord (s.rb + x) = false → exec (.arb a) s =
      .next { s with fcause := .arithmeticOverflow, fpc := s.pc, finfo := 0, runState := .faulted })) ∧
  (∀ (c : Config) (v : Int), c.xlen = .inf → c.isWord v = true)

/-- IN writes the oldest word of Q to the destination cell and pops it. (42_io.md R121; 10_state.md R30.) -/
def Obligations.InputPopsTheHead : Prop :=
  ∀ (s : State) (d : Operand) (k : Nat) (v : Int) (rest : List Int),
    s.dstAddr 1 d = .ok k → s.q = v :: rest →
    exec (.inp d) s = .next { s with mem := s.mem.write k v, q := rest, pc := s.pc + 2 }

/-- IN on an empty Q faults with InputUnderflow; it never waits. (R183.) -/
def Obligations.InputFromEmptyQueueUnderflows : Prop :=
  Cause.inputUnderflow.code = 3 ∧
  ∀ (s : State) (d : Operand) (k : Nat), s.dstAddr 1 d = .ok k → s.q = [] →
    exec (.inp d) s =
      .next { s with fcause := .inputUnderflow, fpc := s.pc, finfo := 0, runState := .faulted }

/-- OUT latches its operand, advances pc by 2 and suspends. (42_io.md R122.) -/
def Obligations.OutputLatchesAndSuspends : Prop :=
  ∀ (s : State) (a : Operand) (x : Int), s.srcVal 1 a = .ok x →
    exec (.out a) s = .next { s with outData := x, outValid := true, pc := s.pc + 2, runState := .suspended }

/-- JT sets pc to b when a is not 0, else advances it by 3. (43_jump.md R130, R131.) -/
def Obligations.JumpIfTrue : Prop :=
  ∀ (s : State) (a b : Operand) (x y : Int), s.srcVal 1 a = .ok x → s.srcVal 2 b = .ok y →
    (x ≠ 0 → s.inMemory y = true → exec (.jt a b) s = .next { s with pc := y.toNat }) ∧
    (x = 0 → exec (.jt a b) s = .next { s with pc := s.pc + 3 })

/-- JF sets pc to b when a is 0, else advances it by 3. (43_jump.md R130, R132.) -/
def Obligations.JumpIfFalse : Prop :=
  ∀ (s : State) (a b : Operand) (x y : Int), s.srcVal 1 a = .ok x → s.srcVal 2 b = .ok y →
    (x = 0 → s.inMemory y = true → exec (.jf a b) s = .next { s with pc := y.toNat }) ∧
    (x ≠ 0 → exec (.jf a b) s = .next { s with pc := s.pc + 3 })

/-- A taken jump to a target outside Memory faults at the jump, pc unchanged. (43_jump.md R133.) -/
def Obligations.TakenJumpOutsideMemoryFaults : Prop :=
  ∀ (s : State) (a b : Operand) (x y : Int), s.srcVal 1 a = .ok x → s.srcVal 2 b = .ok y →
    s.inMemory y = false →
    (x ≠ 0 → exec (.jt a b) s =
      .next { s with fcause := .addressOutOfRange, fpc := s.pc, finfo := y, runState := .faulted }) ∧
    (x = 0 → exec (.jf a b) s =
      .next { s with fcause := .addressOutOfRange, fpc := s.pc, finfo := y, runState := .faulted })

/-- ARB adds its operand to rb and advances pc by 2. (44_base_adjust.md R140.) -/
def Obligations.AdjustBaseAddsToTheBase : Prop :=
  ∀ (s : State) (a : Operand) (x : Int), s.srcVal 1 a = .ok x → s.cfg.isWord (s.rb + x) = true →
    exec (.arb a) s = .next { s with rb := s.rb + x, pc := s.pc + 2 }

/-- HLT sets STATE to HALTED and changes nothing else. (45_halt.md R145.) -/
def Obligations.HaltHalts : Prop :=
  ∀ (s : State), exec .hlt s = .next { s with runState := .halted }

/-- ADD, MUL, LT, EQ change no register but pc and no cell but the destination's. (40_arithmetic.md R100;
41_comparison.md R110; 60_exceptions.md R191.) Model's choice: notes/assumptions/7.md. -/
def Obligations.ComputingInstructionsFrame : Prop :=
  ∀ (i : Instr) (a b d : Operand) (s t : State),
    (i = .add a b d ∨ i = .mul a b d ∨ i = .lt a b d ∨ i = .eq a b d) → exec i s = .next t →
    t.rb = s.rb ∧ t.q = s.q ∧ t.outValid = s.outValid ∧ t.outData = s.outData ∧
    SameEnvironment s t ∧ KeptOrFaulted s t ∧
    (∀ k, s.dstAddr 3 d = .ok k → ∀ x, x ≠ k → t.mem.read x = s.mem.read x) ∧
    (∀ tr, s.dstAddr 3 d = .error tr → ∀ x, t.mem.read x = s.mem.read x)

/-- IN changes no register but pc and Q and no cell but the destination's. (42_io.md R121; 60_exceptions.md R191.)
Model's choice: notes/assumptions/7.md. -/
def Obligations.InputFrame : Prop :=
  ∀ (d : Operand) (s t : State), exec (.inp d) s = .next t →
    t.rb = s.rb ∧ t.outValid = s.outValid ∧ t.outData = s.outData ∧
    SameEnvironment s t ∧ KeptOrFaulted s t ∧
    ((∃ v, s.q = v :: t.q ∧ t.runState = s.runState) ∨ (t.q = s.q ∧ t.runState = .faulted)) ∧
    (∀ k, s.dstAddr 1 d = .ok k → ∀ x, x ≠ k → t.mem.read x = s.mem.read x) ∧
    (∀ tr, s.dstAddr 1 d = .error tr → ∀ x, t.mem.read x = s.mem.read x)

/-- OUT, JT, JF, ARB, HLT store nothing and change only their own registers. (42_io.md R122; 43_jump.md R130;
44_base_adjust.md R140; 45_halt.md R145; 60_exceptions.md R191.) Model's choice: notes/assumptions/7.md. -/
def Obligations.NonStoringInstructionsFrame : Prop :=
  ∀ (i : Instr) (s t : State), exec i s = .next t →
    ((∃ a, i = .out a) ∨ (∃ a b, i = .jt a b) ∨ (∃ a b, i = .jf a b) ∨ (∃ a, i = .arb a) ∨ i = .hlt) →
    (∀ x, t.mem.read x = s.mem.read x) ∧ t.q = s.q ∧ SameEnvironment s t ∧
    ((∀ a, i ≠ .arb a) → t.rb = s.rb) ∧
    ((∀ a, i ≠ .out a) → t.outValid = s.outValid ∧ t.outData = s.outData) ∧
    ((t.fcause = s.fcause ∧ t.fpc = s.fpc ∧ t.finfo = s.finfo) ∨
      (t.runState = .faulted ∧ t.fpc = s.pc ∧ t.pc = s.pc ∧ t.rb = s.rb ∧
        t.outValid = s.outValid ∧ t.outData = s.outData)) ∧
    ((∀ a, i ≠ .out a) → i ≠ .hlt → t.runState = s.runState ∨ t.runState = .faulted)

/-- A faulting instruction has no effect but the fault record and STATE. (60_exceptions.md R191.) -/
def Obligations.FaultsArePrecise : Prop :=
  ∀ (s t : State), s.runState = .run → coreStep s = .next t → t.runState = .faulted →
    t.mem = s.mem ∧ t.q = s.q ∧ t.pc = s.pc ∧ t.rb = s.rb ∧
    t.outValid = s.outValid ∧ t.outData = s.outData ∧ t.fpc = s.pc ∧ SameEnvironment s t

/-- How each instruction leaves pc; pc never leaves 0 .. MEM_CELLS. (R23.) -/
def Obligations.PcAfterEachInstruction : Prop :=
  ∀ (s t : State) (i : Instr), s.runState = .run → decode s.cfg s.fetched = .ok i → exec i s = .next t →
    s.cfg.memCells.allows t.pc = true ∧
    (t.runState = .faulted → t.pc = s.pc) ∧
    (t.runState ≠ .faulted →
      match i with
      | .add _ _ _ => t.pc = s.pc + 4
      | .mul _ _ _ => t.pc = s.pc + 4
      | .lt _ _ _ => t.pc = s.pc + 4
      | .eq _ _ _ => t.pc = s.pc + 4
      | .inp _ => t.pc = s.pc + 2
      | .out _ => t.pc = s.pc + 2
      | .arb _ => t.pc = s.pc + 2
      | .jt a b => ∃ x y, s.srcVal 1 a = .ok x ∧ s.srcVal 2 b = .ok y ∧
          (x ≠ 0 → (t.pc : Int) = y) ∧ (x = 0 → t.pc = s.pc + 3)
      | .jf a b => ∃ x y, s.srcVal 1 a = .ok x ∧ s.srcVal 2 b = .ok y ∧
          (x = 0 → (t.pc : Int) = y) ∧ (x ≠ 0 → t.pc = s.pc + 3)
      | .hlt => t.pc = s.pc)

/-- rb is changed by ARB and by CONSTRUCT and by nothing else. (10_state.md R24, R38; 44_base_adjust.md R140.) -/
def Obligations.OnlyAdjustBaseWritesTheBase : Prop :=
  ∀ (s t : State), step s = .next t → t.rb ≠ s.rb →
    (s.nextEvent.1 = .core ∧ s.runState = .run ∧ ∃ a, decode s.cfg s.fetched = .ok (.arb a)) ∨
    (∃ program inputs, s.nextEvent.1 = .host (.construct program inputs))

/-- STATE changes only by the spec's table of transitions. (R27.) -/
def Obligations.StateTransitionsAreTheTable : Prop :=
  (∀ (s t : State), s.constructed = true → step s = .next t →
    match s.nextEvent.1 with
    | .host c => transitionByCommand s.runState c t.runState = true
    | .core =>
      (s.runState = .run →
        t.runState = .faulted ∨ ∃ i, decode s.cfg s.fetched = .ok i ∧ t.runState = stateAfter i) ∧
      (s.runState ≠ .run → t.runState = s.runState)) ∧
  (∀ (s : State), s.constructed = true →
    transitionByCommand s.runState .run (s.offer .run).runState = true)

/-- Every step keeps the invariant, and a CONSTRUCT that fits establishes it. (00_scope.md R7, R8; 10_state.md R22,
R28, R29, R30, R39; 20_memory.md R52; 47_host_commands.md R151.) -/
def Obligations.StepKeepsTheInvariant : Prop :=
  (∀ (s t : State), s.Inv → step s = .next t → t.Inv) ∧
  (∀ (s : State) (program inputs : List Int), s.cfg.wf = true → s.fits program inputs →
    s.nextEvent.1 = .host (.construct program inputs) → ∃ t, step s = .next t ∧ t.Inv)

/-- FAULTED is left only by CONSTRUCT, and the fault record is never overwritten. (R192.) -/
def Obligations.FaultIsStickyUntilConstruct : Prop :=
  ∀ (s t : State), s.runState = .faulted → step s = .next t →
    (∀ program inputs, s.nextEvent.1 ≠ .host (.construct program inputs)) →
    t.runState = .faulted ∧ t.fcause = s.fcause ∧ t.fpc = s.fpc ∧ t.finfo = s.finfo ∧ t.final = false

/-- After HLT the core has no step: only CONSTRUCT, ENQUEUE and a faulting RUN change anything. (45_halt.md R145;
47_host_commands.md R152, R155.) Model's choice: notes/assumptions/7.md. -/
def Obligations.HaltedNeverRunsAgain : Prop :=
  ∀ (s t : State), s.runState = .halted → step s = .next t →
    (s.nextEvent.1 = .core → t = { s with schedule := s.nextEvent.2 }) ∧
    (∀ v, s.nextEvent.1 = .host (.enqueue v) → t = { s with q := s.q ++ [v], schedule := s.nextEvent.2 }) ∧
    (s.nextEvent.1 = .host .run → t = { s with
      fcause := .alreadyHalted, fpc := s.pc, finfo := 0, runState := .faulted, schedule := s.nextEvent.2 })

/-- Outside RUN the core's turn keeps all state. (60_exceptions.md R197.) Model's choice: notes/assumptions/9.md. -/
def Obligations.IdleCoreKeepsAllState : Prop :=
  ∀ (s : State), s.constructed = true → s.runState ≠ .run → coreStep s = .next s

/-- Q changes only by ENQUEUE at the tail, IN at the head and CONSTRUCT, and stays within FIFO_DEPTH. (R30.) -/
def Obligations.QueueIsFirstInFirstOut : Prop :=
  ∀ (s t : State), step s = .next t →
    (match s.nextEvent.1 with
      | .host (.enqueue v) => t.q = s.q ++ [v]
      | .host (.construct _ inputs) => t.q = inputs
      | .host .run => t.q = s.q
      | .core => t.q = s.q ∨
          (∃ v d, s.q = v :: t.q ∧ s.runState = .run ∧ decode s.cfg s.fetched = .ok (.inp d) ∧ t.runState = .run)) ∧
    (s.cfg.fifoDepth.allows s.q.length = true → t.cfg.fifoDepth.allows t.q.length = true)

/-- The output register is changed by OUT, by RUN and by CONSTRUCT only. (10_state.md R28, R38.) Model's choice:
notes/assumptions/7.md. -/
def Obligations.OutputRegisterChangesOnlyByOutRunConstruct : Prop :=
  ∀ (s t : State), step s = .next t → (t.outValid ≠ s.outValid ∨ t.outData ≠ s.outData) →
    (s.nextEvent.1 = .core ∧ s.runState = .run ∧ ∃ a, decode s.cfg s.fetched = .ok (.out a)) ∨
    s.nextEvent.1 = .host .run ∨
    (∃ program inputs, s.nextEvent.1 = .host (.construct program inputs))

/-- Memory is written by ADD, MUL, LT, EQ, IN and CONSTRUCT only. (10_state.md R38; 20_memory.md R63.) -/
def Obligations.MemoryChangesOnlyByStoresAndConstruct : Prop :=
  ∀ (s t : State) (x : Nat), step s = .next t → t.mem.read x ≠ s.mem.read x →
    (s.nextEvent.1 = .core ∧ s.runState = .run ∧ ∃ i, decode s.cfg s.fetched = .ok i ∧
      ((∃ a b d, i = .add a b d) ∨ (∃ a b d, i = .mul a b d) ∨ (∃ a b d, i = .lt a b d) ∨
        (∃ a b d, i = .eq a b d) ∨ (∃ d, i = .inp d))) ∨
    (∃ program inputs, s.nextEvent.1 = .host (.construct program inputs))

/-- A store is seen by the next fetch of that cell, as instruction word or parameter word. (20_memory.md R61.) -/
def Obligations.StoredWordIsFetchedNext : Prop :=
  ∀ (s : State) (k j pc : Nat) (v : Int), s.mem.wf = true → j < 4 → pc + j = k →
    s.cfg.memCells.exceeds k = true →
    ({ s.store k v with pc := pc } : State).fetched[j]? = some v

/-- No step changes the parameters or un-constructs an instance. (00_scope.md R7; 10_state.md R36.) Model's choice:
notes/assumptions/3.md. -/
def Obligations.ParametersNeverChange : Prop :=
  ∀ (s t : State), step s = .next t → t.cfg = s.cfg ∧ (s.constructed = true → t.constructed = true)

/-- The program cannot see the output register or the fault record. (10_state.md R28, R29, R38.) -/
def Obligations.StatusRegistersAreInvisibleToTheProgram : Prop :=
  ∀ (s t : State) (ov : Bool) (od : Int) (fc : Cause) (fp : Nat) (fi : Int) (sch : List Event) (n : Nat),
    coreStep s = .next t →
    ∃ u, coreStep { s with outValid := ov, outData := od, fcause := fc, fpc := fp, finfo := fi,
                           schedule := sch, freeIdx := n } = .next u ∧
      u.mem = t.mem ∧ u.pc = t.pc ∧ u.rb = t.rb ∧ u.q = t.q ∧ u.runState = t.runState

/-- Two memories in canonical form that read alike are the same data. (10_state.md R32; 20_memory.md R53.) Model's
choice: notes/assumptions/2.md. -/
def Obligations.CanonicalMemoriesThatReadAlikeAreEqual : Prop :=
  ∀ (m m' : Memory), m.wf = true → m'.wf = true → (∀ a, m.read a = m'.read a) → m = m'

/-- What the host reads after a run: output, halted or faulted. (47_host_commands.md R154; 70_reset_and_hazards.md
R223.) -/
def Obligations.RunResultsAreTheTable : Prop :=
  ∀ (fuel : Nat) (s t : State), s.Inv →
    (∀ v, runUntilOutputOrHalt fuel s = .output v t →
      t.runState = .suspended ∧ t.outValid = true ∧ t.outData = v) ∧
    (runUntilOutputOrHalt fuel s = .halted t →
      t.runState = .halted ∧ t.outValid = false ∧ t.fcause = .noFault) ∧
    (runUntilOutputOrHalt fuel s = .faulted t → t.runState = .faulted ∧ t.fcause ≠ .noFault)

/-- Waiting steps the core while STATE is RUN and no further, and the run primitive is RUN, then waiting, then reading
the result. (47_host_commands.md R153, R154; 00_scope.md R10.) Model's choice: notes/assumptions/17.md. -/
def Obligations.WaitingStepsTheCoreWhileInRun : Prop :=
  (∀ (fuel : Nat) (s t : State), s.runState = .run → coreStep s = .next t →
    waitWhileRunning (fuel + 1) s = waitWhileRunning fuel t) ∧
  (∀ (fuel : Nat) (s : State), fuel = 0 ∨ s.runState ≠ .run → waitWhileRunning fuel s = s) ∧
  (∀ (fuel k : Nat) (s : State), (waitWhileRunning fuel s).runState ≠ .run →
    waitWhileRunning (fuel + k) s = waitWhileRunning fuel s) ∧
  (∀ (fuel : Nat) (s w t : State), hostRun s = .next w → waitWhileRunning fuel w = t →
    (t.runState = .suspended → runUntilOutputOrHalt fuel s = .output t.outData t) ∧
    (t.runState = .halted → runUntilOutputOrHalt fuel s = .halted t) ∧
    (t.runState = .faulted → runUntilOutputOrHalt fuel s = .faulted t) ∧
    (t.runState = .run → runUntilOutputOrHalt fuel s = .unfinished t))

/-- collect_all_outputs appends OUT_DATA after each run that ends in SUSPENDED, returns the list at halt and fails at a
fault. (47_host_commands.md R157.) -/
def Obligations.CollectEndsHaltedWithOutputsAppended : Prop :=
  ∀ (fuel runs : Nat) (outs : List Int) (s : State),
    (∀ v t, runUntilOutputOrHalt fuel s = .output v t →
      t.runState = .suspended ∧ v = t.outData ∧
      collectAllOutputs fuel (runs + 1) outs s = collectAllOutputs fuel runs (outs ++ [v]) t) ∧
    (∀ t, runUntilOutputOrHalt fuel s = .halted t →
      collectAllOutputs fuel (runs + 1) outs s = .outputs outs t) ∧
    (∀ t, runUntilOutputOrHalt fuel s = .faulted t →
      collectAllOutputs fuel (runs + 1) outs s = .failed t) ∧
    (∀ result t, collectAllOutputs fuel runs outs s = .outputs result t →
      t.runState = .halted ∧ outs <+: result ∧ result.length < outs.length + runs)

/-- A visit enqueues the signal, runs and waits; the output becomes the signal; a halted instance is skipped.
(47_host_commands.md R167, R170.) Model's choice: notes/assumptions/17.md. -/
def Obligations.RingVisitFeedsThenRuns : Prop :=
  ∀ (fuel : Nat) (r : Ring) (s : State), r.insts[r.turn]? = some s →
    (s.runState = .halted → r.visit fuel =
      .going { insts := r.insts.set r.turn s, signal := r.signal, turn := (r.turn + 1) % r.insts.length }) ∧
    (s.runState ≠ .halted →
      (∀ e, hostEnqueue r.signal s = .refused e → r.visit fuel = .refused) ∧
      (∀ u e, hostEnqueue r.signal s = .next u → hostRun u = .refused e → r.visit fuel = .refused) ∧
      (∀ u w t, hostEnqueue r.signal s = .next u → hostRun u = .next w → waitWhileRunning fuel w = t →
        (t.runState = .suspended → r.visit fuel =
          .going { insts := r.insts.set r.turn t, signal := t.outData, turn := (r.turn + 1) % r.insts.length }) ∧
        (t.runState = .halted → r.turn + 1 ≠ r.insts.length → r.visit fuel =
          .going { insts := r.insts.set r.turn t, signal := r.signal, turn := (r.turn + 1) % r.insts.length }) ∧
        (t.runState = .halted → r.turn + 1 = r.insts.length → ∃ r', r.visit fuel = .finished r.signal r') ∧
        (t.runState = .faulted → r.visit fuel = .failed r.turn t) ∧
        (t.runState = .run → r.visit fuel = .unfinished r.turn t)))

/-- A visit changes no instance but the one whose turn it is. (20_memory.md R64; 47_host_commands.md R165, R167.) -/
def Obligations.RingVisitTouchesOnlyItsInstance : Prop :=
  ∀ (fuel : Nat) (r r' : Ring), r.visit fuel = .going r' →
    r'.insts.length = r.insts.length ∧ r'.turn = (r.turn + 1) % r.insts.length ∧
    ∀ j, j ≠ r.turn → r'.insts[j]? = r.insts[j]?

/-- The ring's set-up constructs instance i from the program with config[i] as its first input. (47_host_commands.md
R166, R168.) -/
def Obligations.RingSetupConstructsEachInstance : Prop :=
  ∀ (c : Config) (program config : List Int) (seed : Int) (r : Ring),
    ringSetup c program config seed = some r →
    r.insts.length = config.length ∧ r.signal = seed ∧ r.turn = 0 ∧
    ∀ (i : Nat) (v : Int), config[i]? = some v →
      ∃ s, r.insts[i]? = some s ∧ s.q = [v] ∧ s.pc = 0 ∧ s.rb = 0 ∧ s.runState = .ready ∧
        ∀ a, s.mem.read a = program.getD a 0

/-- A step is the move the schedule names: the core's turn, or the host's command performed. (00_scope.md R9, R10;
47_host_commands.md R150.) Model's choice: notes/assumptions/8.md. -/
def Obligations.StepIsTheMoveTheScheduleNames : Prop :=
  (∀ s : State, s.schedule = [] → s.nextEvent = (.core, [])) ∧
  (∀ (s : State) (e : Event) (rest : List Event), s.schedule = e :: rest → s.nextEvent = (e, rest)) ∧
  (∀ s : State, s.nextEvent.1 = .core → step s = coreStep { s with schedule := s.nextEvent.2 }) ∧
  (∀ (s : State) (c : Command), s.nextEvent.1 = .host c →
    step s = hostCommand c { s with schedule := s.nextEvent.2 })
end

