-- ==== Sys2Proof/Laws/State.lean ====
section
/-!
SUPPORT. What each register update leaves in each field of State, so that no later proof unfolds an update.
-/

namespace Sys2Proof.Machine

variable (s : State)

@[simp] theorem State.advance_cfg (n : Nat) : (s.advance n).cfg = s.cfg := rfl
@[simp] theorem State.advance_constructed (n : Nat) : (s.advance n).constructed = s.constructed := rfl
@[simp] theorem State.advance_mem (n : Nat) : (s.advance n).mem = s.mem := rfl
@[simp] theorem State.advance_pc (n : Nat) : (s.advance n).pc = s.pc + n := rfl
@[simp] theorem State.advance_rb (n : Nat) : (s.advance n).rb = s.rb := rfl
@[simp] theorem State.advance_q (n : Nat) : (s.advance n).q = s.q := rfl
@[simp] theorem State.advance_runState (n : Nat) : (s.advance n).runState = s.runState := rfl
@[simp] theorem State.advance_outValid (n : Nat) : (s.advance n).outValid = s.outValid := rfl
@[simp] theorem State.advance_outData (n : Nat) : (s.advance n).outData = s.outData := rfl
@[simp] theorem State.advance_fcause (n : Nat) : (s.advance n).fcause = s.fcause := rfl
@[simp] theorem State.advance_fpc (n : Nat) : (s.advance n).fpc = s.fpc := rfl
@[simp] theorem State.advance_finfo (n : Nat) : (s.advance n).finfo = s.finfo := rfl
@[simp] theorem State.advance_schedule (n : Nat) : (s.advance n).schedule = s.schedule := rfl
@[simp] theorem State.advance_freeIdx (n : Nat) : (s.advance n).freeIdx = s.freeIdx := rfl

@[simp] theorem State.jumpTo_cfg (a : Nat) : (s.jumpTo a).cfg = s.cfg := rfl
@[simp] theorem State.jumpTo_constructed (a : Nat) : (s.jumpTo a).constructed = s.constructed := rfl
@[simp] theorem State.jumpTo_mem (a : Nat) : (s.jumpTo a).mem = s.mem := rfl
@[simp] theorem State.jumpTo_pc (a : Nat) : (s.jumpTo a).pc = a := rfl
@[simp] theorem State.jumpTo_rb (a : Nat) : (s.jumpTo a).rb = s.rb := rfl
@[simp] theorem State.jumpTo_q (a : Nat) : (s.jumpTo a).q = s.q := rfl
@[simp] theorem State.jumpTo_runState (a : Nat) : (s.jumpTo a).runState = s.runState := rfl
@[simp] theorem State.jumpTo_outValid (a : Nat) : (s.jumpTo a).outValid = s.outValid := rfl
@[simp] theorem State.jumpTo_outData (a : Nat) : (s.jumpTo a).outData = s.outData := rfl
@[simp] theorem State.jumpTo_fcause (a : Nat) : (s.jumpTo a).fcause = s.fcause := rfl
@[simp] theorem State.jumpTo_fpc (a : Nat) : (s.jumpTo a).fpc = s.fpc := rfl
@[simp] theorem State.jumpTo_finfo (a : Nat) : (s.jumpTo a).finfo = s.finfo := rfl
@[simp] theorem State.jumpTo_schedule (a : Nat) : (s.jumpTo a).schedule = s.schedule := rfl
@[simp] theorem State.jumpTo_freeIdx (a : Nat) : (s.jumpTo a).freeIdx = s.freeIdx := rfl

@[simp] theorem State.store_cfg (d : Nat) (v : Int) : (s.store d v).cfg = s.cfg := rfl
@[simp] theorem State.store_constructed (d : Nat) (v : Int) : (s.store d v).constructed = s.constructed := rfl
@[simp] theorem State.store_mem (d : Nat) (v : Int) : (s.store d v).mem = s.mem.write d v := rfl
@[simp] theorem State.store_pc (d : Nat) (v : Int) : (s.store d v).pc = s.pc := rfl
@[simp] theorem State.store_rb (d : Nat) (v : Int) : (s.store d v).rb = s.rb := rfl
@[simp] theorem State.store_q (d : Nat) (v : Int) : (s.store d v).q = s.q := rfl
@[simp] theorem State.store_runState (d : Nat) (v : Int) : (s.store d v).runState = s.runState := rfl
@[simp] theorem State.store_outValid (d : Nat) (v : Int) : (s.store d v).outValid = s.outValid := rfl
@[simp] theorem State.store_outData (d : Nat) (v : Int) : (s.store d v).outData = s.outData := rfl
@[simp] theorem State.store_fcause (d : Nat) (v : Int) : (s.store d v).fcause = s.fcause := rfl
@[simp] theorem State.store_fpc (d : Nat) (v : Int) : (s.store d v).fpc = s.fpc := rfl
@[simp] theorem State.store_finfo (d : Nat) (v : Int) : (s.store d v).finfo = s.finfo := rfl
@[simp] theorem State.store_schedule (d : Nat) (v : Int) : (s.store d v).schedule = s.schedule := rfl
@[simp] theorem State.store_freeIdx (d : Nat) (v : Int) : (s.store d v).freeIdx = s.freeIdx := rfl

@[simp] theorem State.setQueue_cfg (rest : List Int) : (s.setQueue rest).cfg = s.cfg := rfl
@[simp] theorem State.setQueue_constructed (rest : List Int) : (s.setQueue rest).constructed = s.constructed := rfl
@[simp] theorem State.setQueue_mem (rest : List Int) : (s.setQueue rest).mem = s.mem := rfl
@[simp] theorem State.setQueue_pc (rest : List Int) : (s.setQueue rest).pc = s.pc := rfl
@[simp] theorem State.setQueue_rb (rest : List Int) : (s.setQueue rest).rb = s.rb := rfl
@[simp] theorem State.setQueue_q (rest : List Int) : (s.setQueue rest).q = rest := rfl
@[simp] theorem State.setQueue_runState (rest : List Int) : (s.setQueue rest).runState = s.runState := rfl
@[simp] theorem State.setQueue_outValid (rest : List Int) : (s.setQueue rest).outValid = s.outValid := rfl
@[simp] theorem State.setQueue_outData (rest : List Int) : (s.setQueue rest).outData = s.outData := rfl
@[simp] theorem State.setQueue_fcause (rest : List Int) : (s.setQueue rest).fcause = s.fcause := rfl
@[simp] theorem State.setQueue_fpc (rest : List Int) : (s.setQueue rest).fpc = s.fpc := rfl
@[simp] theorem State.setQueue_finfo (rest : List Int) : (s.setQueue rest).finfo = s.finfo := rfl
@[simp] theorem State.setQueue_schedule (rest : List Int) : (s.setQueue rest).schedule = s.schedule := rfl
@[simp] theorem State.setQueue_freeIdx (rest : List Int) : (s.setQueue rest).freeIdx = s.freeIdx := rfl

@[simp] theorem State.setBase_cfg (v : Int) : (s.setBase v).cfg = s.cfg := rfl
@[simp] theorem State.setBase_constructed (v : Int) : (s.setBase v).constructed = s.constructed := rfl
@[simp] theorem State.setBase_mem (v : Int) : (s.setBase v).mem = s.mem := rfl
@[simp] theorem State.setBase_pc (v : Int) : (s.setBase v).pc = s.pc := rfl
@[simp] theorem State.setBase_rb (v : Int) : (s.setBase v).rb = v := rfl
@[simp] theorem State.setBase_q (v : Int) : (s.setBase v).q = s.q := rfl
@[simp] theorem State.setBase_runState (v : Int) : (s.setBase v).runState = s.runState := rfl
@[simp] theorem State.setBase_outValid (v : Int) : (s.setBase v).outValid = s.outValid := rfl
@[simp] theorem State.setBase_outData (v : Int) : (s.setBase v).outData = s.outData := rfl
@[simp] theorem State.setBase_fcause (v : Int) : (s.setBase v).fcause = s.fcause := rfl
@[simp] theorem State.setBase_fpc (v : Int) : (s.setBase v).fpc = s.fpc := rfl
@[simp] theorem State.setBase_finfo (v : Int) : (s.setBase v).finfo = s.finfo := rfl
@[simp] theorem State.setBase_schedule (v : Int) : (s.setBase v).schedule = s.schedule := rfl
@[simp] theorem State.setBase_freeIdx (v : Int) : (s.setBase v).freeIdx = s.freeIdx := rfl

@[simp] theorem State.latchOutput_cfg (v : Int) : (s.latchOutput v).cfg = s.cfg := rfl
@[simp] theorem State.latchOutput_constructed (v : Int) : (s.latchOutput v).constructed = s.constructed := rfl
@[simp] theorem State.latchOutput_mem (v : Int) : (s.latchOutput v).mem = s.mem := rfl
@[simp] theorem State.latchOutput_pc (v : Int) : (s.latchOutput v).pc = s.pc := rfl
@[simp] theorem State.latchOutput_rb (v : Int) : (s.latchOutput v).rb = s.rb := rfl
@[simp] theorem State.latchOutput_q (v : Int) : (s.latchOutput v).q = s.q := rfl
@[simp] theorem State.latchOutput_runState (v : Int) : (s.latchOutput v).runState = .suspended := rfl
@[simp] theorem State.latchOutput_outValid (v : Int) : (s.latchOutput v).outValid = true := rfl
@[simp] theorem State.latchOutput_outData (v : Int) : (s.latchOutput v).outData = v := rfl
@[simp] theorem State.latchOutput_fcause (v : Int) : (s.latchOutput v).fcause = s.fcause := rfl
@[simp] theorem State.latchOutput_fpc (v : Int) : (s.latchOutput v).fpc = s.fpc := rfl
@[simp] theorem State.latchOutput_finfo (v : Int) : (s.latchOutput v).finfo = s.finfo := rfl
@[simp] theorem State.latchOutput_schedule (v : Int) : (s.latchOutput v).schedule = s.schedule := rfl
@[simp] theorem State.latchOutput_freeIdx (v : Int) : (s.latchOutput v).freeIdx = s.freeIdx := rfl

@[simp] theorem State.halt_cfg : s.halt.cfg = s.cfg := rfl
@[simp] theorem State.halt_constructed : s.halt.constructed = s.constructed := rfl
@[simp] theorem State.halt_mem : s.halt.mem = s.mem := rfl
@[simp] theorem State.halt_pc : s.halt.pc = s.pc := rfl
@[simp] theorem State.halt_rb : s.halt.rb = s.rb := rfl
@[simp] theorem State.halt_q : s.halt.q = s.q := rfl
@[simp] theorem State.halt_runState : s.halt.runState = .halted := rfl
@[simp] theorem State.halt_outValid : s.halt.outValid = s.outValid := rfl
@[simp] theorem State.halt_outData : s.halt.outData = s.outData := rfl
@[simp] theorem State.halt_fcause : s.halt.fcause = s.fcause := rfl
@[simp] theorem State.halt_fpc : s.halt.fpc = s.fpc := rfl
@[simp] theorem State.halt_finfo : s.halt.finfo = s.finfo := rfl
@[simp] theorem State.halt_schedule : s.halt.schedule = s.schedule := rfl
@[simp] theorem State.halt_freeIdx : s.halt.freeIdx = s.freeIdx := rfl

@[simp] theorem State.takeFault_cfg (t : Trap) : (s.takeFault t).cfg = s.cfg := rfl
@[simp] theorem State.takeFault_constructed (t : Trap) : (s.takeFault t).constructed = s.constructed := rfl
@[simp] theorem State.takeFault_mem (t : Trap) : (s.takeFault t).mem = s.mem := rfl
@[simp] theorem State.takeFault_pc (t : Trap) : (s.takeFault t).pc = s.pc := rfl
@[simp] theorem State.takeFault_rb (t : Trap) : (s.takeFault t).rb = s.rb := rfl
@[simp] theorem State.takeFault_q (t : Trap) : (s.takeFault t).q = s.q := rfl
@[simp] theorem State.takeFault_runState (t : Trap) : (s.takeFault t).runState = .faulted := rfl
@[simp] theorem State.takeFault_outValid (t : Trap) : (s.takeFault t).outValid = s.outValid := rfl
@[simp] theorem State.takeFault_outData (t : Trap) : (s.takeFault t).outData = s.outData := rfl
@[simp] theorem State.takeFault_fcause (t : Trap) : (s.takeFault t).fcause = t.cause := rfl
@[simp] theorem State.takeFault_fpc (t : Trap) : (s.takeFault t).fpc = s.pc := rfl
@[simp] theorem State.takeFault_finfo (t : Trap) : (s.takeFault t).finfo = t.info := rfl
@[simp] theorem State.takeFault_schedule (t : Trap) : (s.takeFault t).schedule = s.schedule := rfl
@[simp] theorem State.takeFault_freeIdx (t : Trap) : (s.takeFault t).freeIdx = s.freeIdx := rfl

@[simp] theorem State.startRun_cfg : s.startRun.cfg = s.cfg := rfl
@[simp] theorem State.startRun_constructed : s.startRun.constructed = s.constructed := rfl
@[simp] theorem State.startRun_mem : s.startRun.mem = s.mem := rfl
@[simp] theorem State.startRun_pc : s.startRun.pc = s.pc := rfl
@[simp] theorem State.startRun_rb : s.startRun.rb = s.rb := rfl
@[simp] theorem State.startRun_q : s.startRun.q = s.q := rfl
@[simp] theorem State.startRun_runState : s.startRun.runState = .run := rfl
@[simp] theorem State.startRun_outValid : s.startRun.outValid = false := rfl
@[simp] theorem State.startRun_outData : s.startRun.outData = s.cfg.freeWord s.freeIdx := rfl
@[simp] theorem State.startRun_fcause : s.startRun.fcause = s.fcause := rfl
@[simp] theorem State.startRun_fpc : s.startRun.fpc = s.fpc := rfl
@[simp] theorem State.startRun_finfo : s.startRun.finfo = s.finfo := rfl
@[simp] theorem State.startRun_schedule : s.startRun.schedule = s.schedule := rfl
@[simp] theorem State.startRun_freeIdx : s.startRun.freeIdx = s.freeIdx + 1 := rfl

end Sys2Proof.Machine
end

