-- ==== Sys2Proof/Laws/Operations.lean ====
section
/-!
SUPPORT. Once for each shared operation: everything it can do.
-/

namespace Sys2Proof.Machine

/-- An instruction always ends in a next state: its effect, or the fault it raised. -/
theorem conclude_cases {s t : State} {r : Except Trap State} (h : s.conclude r = .next t) :
    r = .ok t ∨ ∃ tr, r = .error tr ∧ t = s.takeFault tr := by
  unfold State.conclude at h
  cases r with
  | ok u => injection h with h; exact .inl (h ▸ rfl)
  | error tr => injection h with h; exact .inr ⟨tr, rfl, h.symm⟩

theorem chk_ok {s : State} {info : Int} {v r : Int} (h : s.chk info v = .ok r) :
    r = v ∧ s.cfg.isWord v = true := by
  unfold State.chk at h
  split at h
  · injection h with h; exact ⟨h.symm, ‹_›⟩
  · cases h

theorem chk_of_isWord {s : State} {info : Int} {v : Int} (h : s.cfg.isWord v = true) :
    s.chk info v = .ok v := by
  simp [State.chk, h]

theorem chk_of_not_isWord {s : State} {info : Int} {v : Int} (h : s.cfg.isWord v = false) :
    s.chk info v = .error { cause := .arithmeticOverflow, info := info } := by
  simp [State.chk, h]

theorem inMemory_iff {s : State} {a : Int} :
    s.inMemory a = true ↔ 0 ≤ a ∧ s.cfg.memCells.exceeds a.toNat = true := by
  simp [State.inMemory]

theorem checkAddr_ok {s : State} {a : Int} {k : Nat} (h : s.checkAddr a = .ok k) :
    k = a.toNat ∧ 0 ≤ a ∧ s.cfg.memCells.exceeds k = true := by
  unfold State.checkAddr at h
  split at h
  · next hm =>
    injection h with h
    subst h
    exact ⟨rfl, inMemory_iff.mp hm⟩
  · cases h

theorem checkAddr_error {s : State} {a : Int} {t : Trap} (h : s.checkAddr a = .error t) :
    s.inMemory a = false ∧ t = { cause := .addressOutOfRange, info := a } := by
  unfold State.checkAddr at h
  split at h
  · cases h
  · next hm => injection h with h; exact ⟨by simpa using hm, h.symm⟩

theorem memRead_ok {s : State} {a : Int} {v : Int} (h : s.memRead a = .ok v) :
    s.inMemory a = true ∧ v = s.mem.read a.toNat := by
  unfold State.memRead at h
  split at h
  · next k hk =>
    obtain ⟨rfl, h0, h1⟩ := checkAddr_ok hk
    injection h with h
    exact ⟨inMemory_iff.mpr ⟨h0, h1⟩, h.symm⟩
  · cases h

theorem memRead_error {s : State} {a : Int} {t : Trap} (h : s.memRead a = .error t) :
    s.inMemory a = false ∧ t = { cause := .addressOutOfRange, info := a } := by
  unfold State.memRead at h
  split at h
  · cases h
  · next hk => injection h with h; exact h ▸ checkAddr_error hk

/-- A destination that resolves is a cell that exists. -/
theorem dstAddr_ok {s : State} {n : Nat} {o : Operand} {k : Nat} (h : s.dstAddr n o = .ok k) :
    s.cfg.memCells.exceeds k = true := by
  unfold State.dstAddr at h
  split at h
  · cases h
  · split at h
    · exact (checkAddr_ok h).2.2
    · cases h
    · split at h
      · cases h
      · exact (checkAddr_ok h).2.2
    · cases h

/-- What a format `F4` instruction does: its operands resolve and the result is written, or a fault is taken. -/
theorem binary_cases {s t : State} {a b d : Operand} {f : Int → Int → Except Trap Int}
    (h : s.binary a b d f = .next t) :
    (∃ x y k r, s.srcVal 1 a = .ok x ∧ s.srcVal 2 b = .ok y ∧ s.dstAddr 3 d = .ok k ∧ f x y = .ok r ∧
      t = (s.store k r).advance 4) ∨
    ∃ tr, t = s.takeFault tr := by
  rcases conclude_cases h with h | ⟨tr, -, h⟩
  · split at h
    · cases h
    · split at h
      · cases h
      · split at h
        · cases h
        · split at h
          · cases h
          · injection h with h
            exact .inl ⟨_, _, _, _, ‹_›, ‹_›, ‹_›, ‹_›, h.symm⟩
  · exact .inr ⟨tr, h⟩

/-- What a jump does: taken to a cell that exists, or not taken, or a fault is taken. -/
theorem jumpWhen_cases {s t : State} {a b : Operand} {p : Int → Bool} (h : s.jumpWhen a b p = .next t) :
    (∃ x y k, s.srcVal 1 a = .ok x ∧ s.srcVal 2 b = .ok y ∧ p x = true ∧ s.checkAddr y = .ok k ∧ t = s.jumpTo k) ∨
    (∃ x y, s.srcVal 1 a = .ok x ∧ s.srcVal 2 b = .ok y ∧ p x = false ∧ t = s.advance 3) ∨
    ∃ tr, t = s.takeFault tr := by
  rcases conclude_cases h with h | ⟨tr, -, h⟩
  · split at h
    · cases h
    · split at h
      · cases h
      · split at h
        · split at h
          · cases h
          · injection h with h
            exact .inl ⟨_, _, _, ‹_›, ‹_›, ‹_›, ‹_›, h.symm⟩
        · injection h with h
          exact .inr (.inl ⟨_, _, ‹_›, ‹_›, by simp_all, h.symm⟩)
  · exact .inr (.inr ⟨tr, h⟩)

/-- What a format `F2S` instruction does: its operand resolves and its effect is taken, or a fault is taken. -/
theorem unary_cases {s t : State} {a : Operand} {f : Int → Except Trap State} (h : s.unary a f = .next t) :
    (∃ x u, s.srcVal 1 a = .ok x ∧ f x = .ok u ∧ t = u.advance 2) ∨ ∃ tr, t = s.takeFault tr := by
  rcases conclude_cases h with h | ⟨tr, -, h⟩
  · split at h
    · cases h
    · split at h
      · cases h
      · injection h with h
        exact .inl ⟨_, _, ‹_›, ‹_›, h.symm⟩
  · exact .inr ⟨tr, h⟩

/-- What `IN` does. -/
theorem execInp_cases {s t : State} {d : Operand} (h : execInp d s = .next t) :
    (∃ k v rest, s.dstAddr 1 d = .ok k ∧ s.q = v :: rest ∧ t = ((s.setQueue rest).store k v).advance 2) ∨
    ∃ tr, t = s.takeFault tr := by
  rcases conclude_cases h with h | ⟨tr, -, h⟩
  · split at h
    · cases h
    · split at h
      · cases h
      · injection h with h
        exact .inl ⟨_, _, _, ‹_›, ‹_›, h.symm⟩
  · exact .inr ⟨tr, h⟩

/-- What `OUT` does. -/
theorem execOut_cases {s t : State} {a : Operand} (h : execOut a s = .next t) :
    (∃ x, s.srcVal 1 a = .ok x ∧ t = (s.latchOutput x).advance 2) ∨ ∃ tr, t = s.takeFault tr := by
  rcases unary_cases h with ⟨x, u, hx, hu, rfl⟩ | h
  · injection hu with hu; exact .inl ⟨x, hx, hu ▸ rfl⟩
  · exact .inr h

/-- What `ARB` does. -/
theorem execArb_cases {s t : State} {a : Operand} (h : execArb a s = .next t) :
    (∃ x, s.srcVal 1 a = .ok x ∧ s.cfg.isWord (s.rb + x) = true ∧ t = (s.setBase (s.rb + x)).advance 2) ∨
    ∃ tr, t = s.takeFault tr := by
  rcases unary_cases h with ⟨x, u, hx, hu, rfl⟩ | h
  · split at hu
    · cases hu
    · next v hv =>
      obtain ⟨rfl, hw⟩ := chk_ok hv
      injection hu with hu
      exact .inl ⟨x, hx, hw, hu ▸ rfl⟩
  · exact .inr h

/-- What a turn of the core does. -/
theorem coreStep_cases {s t : State} (h : coreStep s = .next t) :
    s.constructed = true ∧
    ((s.runState = .run ∧ ∃ i, decode s.cfg s.fetched = .ok i ∧ exec i s = .next t) ∨
     (s.runState = .run ∧ ∃ r, decode s.cfg s.fetched = .error r ∧ t = s.takeFault (s.rejectTrap r)) ∨
     (s.runState ≠ .run ∧ t = s)) := by
  unfold coreStep at h
  split at h
  · cases h
  · next hc =>
    refine ⟨by simpa using hc, ?_⟩
    split at h
    · next hr =>
      unfold runInstruction at h
      split at h
      · injection h with h; exact .inr (.inl ⟨hr, _, ‹_›, h.symm⟩)
      · exact .inl ⟨hr, _, ‹_›, h⟩
    all_goals (injection h with h; exact .inr (.inr ⟨by simp_all, h.symm⟩))

/-- What an accepted `ENQUEUE` does. -/
theorem hostEnqueue_next {s t : State} {v : Int} (h : hostEnqueue v s = .next t) :
    s.constructed = true ∧ s.cfg.isWord v = true ∧ s.inFull = false ∧ t = { s with q := s.q ++ [v] } := by
  unfold hostEnqueue at h
  split at h
  · cases h
  · split at h
    · cases h
    · split at h
      · cases h
      · injection h with h; simp_all

/-- What an accepted `RUN` does. -/
theorem hostRun_next {s t : State} (h : hostRun s = .next t) :
    s.constructed = true ∧
    (((s.runState = .ready ∨ s.runState = .suspended) ∧ t = s.startRun) ∨
     (s.runState = .halted ∧ t = s.takeFault { cause := .alreadyHalted, info := 0 })) := by
  unfold hostRun at h
  split at h
  · cases h
  · next hc =>
    refine ⟨by simpa using hc, ?_⟩
    split at h <;> first | (injection h with h; simp_all) | cases h

/-- What an accepted `CONSTRUCT` needs and leaves. -/
theorem hostConstruct_next {s t : State} {p q : List Int} (h : hostConstruct p q s = .next t) :
    s.cfg.memCells.allows (p.length + s.cfg.margin) = true ∧ s.cfg.fifoDepth.allows q.length = true ∧
    allWords s.cfg p = true ∧ allWords s.cfg q = true ∧
    t = { cfg := s.cfg, constructed := true, mem := Memory.image 0 p, pc := 0, rb := 0, q := q, runState := .ready,
          outValid := false, outData := s.cfg.freeWord s.freeIdx, fcause := .noFault,
          fpc := s.cfg.freePc (s.freeIdx + 1), finfo := s.cfg.freeWord (s.freeIdx + 2),
          schedule := s.schedule, freeIdx := s.freeIdx + 3 } := by
  unfold hostConstruct at h
  split at h
  · cases h
  · split at h
    · cases h
    · split at h
      · cases h
      · injection h with h; simp_all

end Sys2Proof.Machine
end

