-- ==== Sys2Proof/Laws/Exec.lean ====
section
/-!
SUPPORT. Once for all ten instructions: everything `exec` can do, and that it always answers a next state.
-/

namespace Sys2Proof.Machine

/-- The effect of an instruction that does not fault, with everything that had to hold for it. -/
def Effect (s t : State) : Instr → Prop
  | .add a b d => ∃ x y k, s.srcVal 1 a = .ok x ∧ s.srcVal 2 b = .ok y ∧ s.dstAddr 3 d = .ok k ∧
      s.cfg.isWord (x + y) = true ∧ t = (s.store k (x + y)).advance 4
  | .mul a b d => ∃ x y k, s.srcVal 1 a = .ok x ∧ s.srcVal 2 b = .ok y ∧ s.dstAddr 3 d = .ok k ∧
      s.cfg.isWord (x * y) = true ∧ t = (s.store k (x * y)).advance 4
  | .lt a b d => ∃ x y k, s.srcVal 1 a = .ok x ∧ s.srcVal 2 b = .ok y ∧ s.dstAddr 3 d = .ok k ∧
      t = (s.store k (wordOfBool (decide (x < y)))).advance 4
  | .eq a b d => ∃ x y k, s.srcVal 1 a = .ok x ∧ s.srcVal 2 b = .ok y ∧ s.dstAddr 3 d = .ok k ∧
      t = (s.store k (wordOfBool (decide (x = y)))).advance 4
  | .inp d => ∃ k v rest, s.dstAddr 1 d = .ok k ∧ s.q = v :: rest ∧
      t = ((s.setQueue rest).store k v).advance 2
  | .out a => ∃ x, s.srcVal 1 a = .ok x ∧ t = (s.latchOutput x).advance 2
  | .arb a => ∃ x, s.srcVal 1 a = .ok x ∧ s.cfg.isWord (s.rb + x) = true ∧
      t = (s.setBase (s.rb + x)).advance 2
  | .jt a b => ∃ x y, s.srcVal 1 a = .ok x ∧ s.srcVal 2 b = .ok y ∧
      ((x ≠ 0 ∧ ∃ k, s.checkAddr y = .ok k ∧ t = s.jumpTo k) ∨ (x = 0 ∧ t = s.advance 3))
  | .jf a b => ∃ x y, s.srcVal 1 a = .ok x ∧ s.srcVal 2 b = .ok y ∧
      ((x = 0 ∧ ∃ k, s.checkAddr y = .ok k ∧ t = s.jumpTo k) ∨ (x ≠ 0 ∧ t = s.advance 3))
  | .hlt => t = s.halt

/-- Whatever `exec` answers as a next state is a fault taken or the instruction's effect. -/
theorem exec_cases {i : Instr} {s t : State} (h : exec i s = .next t) :
    (∃ tr, t = s.takeFault tr) ∨ Effect s t i := by
  cases i with
  | add a b d =>
    rcases binary_cases (f := fun x y => s.chk 0 (x + y)) h with ⟨x, y, k, r, h1, h2, h3, h4, rfl⟩ | h
    · obtain ⟨rfl, hw⟩ := chk_ok h4
      exact .inr ⟨x, y, k, h1, h2, h3, hw, rfl⟩
    · exact .inl h
  | mul a b d =>
    rcases binary_cases (f := fun x y => s.chk 0 (x * y)) h with ⟨x, y, k, r, h1, h2, h3, h4, rfl⟩ | h
    · obtain ⟨rfl, hw⟩ := chk_ok h4
      exact .inr ⟨x, y, k, h1, h2, h3, hw, rfl⟩
    · exact .inl h
  | lt a b d =>
    rcases binary_cases (f := fun x y => .ok (wordOfBool (decide (x < y)))) h with
      ⟨x, y, k, r, h1, h2, h3, h4, rfl⟩ | h
    · injection h4 with h4
      exact .inr ⟨x, y, k, h1, h2, h3, h4 ▸ rfl⟩
    · exact .inl h
  | eq a b d =>
    rcases binary_cases (f := fun x y => .ok (wordOfBool (decide (x = y)))) h with
      ⟨x, y, k, r, h1, h2, h3, h4, rfl⟩ | h
    · injection h4 with h4
      exact .inr ⟨x, y, k, h1, h2, h3, h4 ▸ rfl⟩
    · exact .inl h
  | inp d => exact (execInp_cases h).symm
  | out a => exact (execOut_cases h).symm
  | arb a => exact (execArb_cases h).symm
  | jt a b =>
    rcases jumpWhen_cases h with ⟨x, y, k, h1, h2, h3, h4, h5⟩ | ⟨x, y, h1, h2, h3, h4⟩ | h
    · exact .inr ⟨x, y, h1, h2, .inl ⟨by simpa [nonZero] using h3, k, h4, h5⟩⟩
    · exact .inr ⟨x, y, h1, h2, .inr ⟨by simpa [nonZero] using h3, h4⟩⟩
    · exact .inl h
  | jf a b =>
    rcases jumpWhen_cases h with ⟨x, y, k, h1, h2, h3, h4, h5⟩ | ⟨x, y, h1, h2, h3, h4⟩ | h
    · exact .inr ⟨x, y, h1, h2, .inl ⟨by simpa [isZero] using h3, k, h4, h5⟩⟩
    · exact .inr ⟨x, y, h1, h2, .inr ⟨by simpa [isZero] using h3, h4⟩⟩
    · exact .inl h
  | hlt => injection h with h; exact .inr h.symm

/-- An instruction that raised no fault concludes, and so does one that did. -/
theorem conclude_next (s : State) (r : Except Trap State) : ∃ t, s.conclude r = .next t := by
  cases r with
  | ok t => exact ⟨t, rfl⟩
  | error t => exact ⟨s.takeFault t, rfl⟩

/-- No instruction stops the machine. -/
theorem exec_next (i : Instr) (s : State) : ∃ t, exec i s = .next t := by
  cases i <;> first | exact conclude_next s _ | exact ⟨_, rfl⟩

end Sys2Proof.Machine
end

