-- ==== Sys2Proof/Laws/Memory.lean ====
section
/-!
SUPPORT. Reading and writing Memory, its canonical form and its bounds.
-/

namespace Sys2Proof.Machine

/-- The canonical form, taken apart at the first listed cell. -/
theorem Memory.wf_cons {k : Nat} {v : Int} {m : Memory} :
    Memory.wf ((k, v) :: m) = true ↔ v ≠ 0 ∧ (∀ e ∈ m, k < e.1) ∧ Memory.wf m = true := by
  simp [Memory.wf, and_assoc]

/-- A cell below every listed one holds 0. -/
theorem Memory.read_of_below {m : Memory} {a : Nat} (h : ∀ e ∈ m, a < e.1) : Memory.read m a = 0 := by
  induction m with
  | nil => rfl
  | cons e m ih =>
    obtain ⟨k, v⟩ := e
    have hk : a < k := h (k, v) (List.mem_cons_self ..)
    simp only [Memory.read, if_neg (Nat.ne_of_lt hk)]
    exact ih (fun e he => h e (List.mem_cons_of_mem _ he))

/-- A written cell reads as what was written. -/
@[simp] theorem Memory.read_write_same {m : Memory} (h : Memory.wf m = true) (a : Nat) (v : Int) :
    Memory.read (Memory.write m a v) a = v := by
  induction m with
  | nil => by_cases hv : v = 0 <;> simp [Memory.write, Memory.read, hv]
  | cons e m ih =>
    obtain ⟨k, u⟩ := e
    obtain ⟨-, hlt, hm⟩ := Memory.wf_cons.mp h
    rcases Nat.lt_trichotomy a k with hak | rfl | hak
    · by_cases hv : v = 0
      · subst hv
        simp only [Memory.write, if_pos hak, if_true, Memory.read, if_neg (Nat.ne_of_lt hak)]
        exact Memory.read_of_below (fun e he => Nat.lt_trans hak (hlt e he))
      · simp [Memory.write, Memory.read, hak, hv]
    · by_cases hv : v = 0
      · subst hv
        simpa [Memory.write] using Memory.read_of_below hlt
      · simp [Memory.write, Memory.read, hv]
    · have h1 : ¬ a < k := by omega
      have h2 : a ≠ k := by omega
      simpa [Memory.write, Memory.read, h1, h2] using ih hm

/-- A write leaves every other cell alone. -/
@[simp] theorem Memory.read_write_other (m : Memory) {a b : Nat} (v : Int) (hab : b ≠ a) :
    Memory.read (Memory.write m a v) b = Memory.read m b := by
  induction m with
  | nil => by_cases hv : v = 0 <;> simp [Memory.write, Memory.read, hv, hab]
  | cons e m ih =>
    obtain ⟨k, u⟩ := e
    rcases Nat.lt_trichotomy a k with hak | rfl | hak
    · by_cases hv : v = 0 <;> simp [Memory.write, Memory.read, hak, hv, hab]
    · by_cases hv : v = 0 <;> simp [Memory.write, Memory.read, hv, hab]
    · have h1 : ¬ a < k := by omega
      have h2 : a ≠ k := by omega
      simp only [Memory.write, if_neg h1, if_neg h2, Memory.read]
      split <;> simp_all

/-- A cell listed after a write was listed before, or is the cell written. -/
theorem Memory.mem_write {m : Memory} {a : Nat} {v : Int} {e : Nat × Int}
    (h : e ∈ Memory.write m a v) : e ∈ m ∨ e = (a, v) := by
  induction m with
  | nil => by_cases hv : v = 0 <;> simp_all [Memory.write]
  | cons x m ih =>
    obtain ⟨k, u⟩ := x
    simp only [Memory.write] at h
    split at h
    · split at h <;> (simp_all; try tauto)
    · split at h
      · split at h <;> (simp_all; try tauto)
      · rcases List.mem_cons.mp h with h | h
        · exact .inl (h ▸ List.mem_cons_self ..)
        · exact (ih h).imp_left (List.mem_cons_of_mem _)

/-- A write keeps the canonical form. -/
theorem Memory.write_wf {m : Memory} (h : Memory.wf m = true) (a : Nat) (v : Int) :
    Memory.wf (Memory.write m a v) = true := by
  induction m with
  | nil => by_cases hv : v = 0 <;> simp [Memory.write, Memory.wf, hv]
  | cons e m ih =>
    obtain ⟨k, u⟩ := e
    obtain ⟨hu, hlt, hm⟩ := Memory.wf_cons.mp h
    rcases Nat.lt_trichotomy a k with hak | rfl | hak
    · by_cases hv : v = 0
      · simpa [Memory.write, hak, hv] using h
      · simp only [Memory.write, if_pos hak, if_neg hv]
        refine Memory.wf_cons.mpr ⟨hv, fun e he => ?_, h⟩
        rcases List.mem_cons.mp he with rfl | he
        · exact hak
        · exact Nat.lt_trans hak (hlt e he)
    · by_cases hv : v = 0
      · simpa [Memory.write, hv] using hm
      · simp only [Memory.write, Nat.lt_irrefl, if_false, if_true, if_neg hv]
        exact Memory.wf_cons.mpr ⟨hv, hlt, hm⟩
    · have h1 : ¬ a < k := by omega
      have h2 : a ≠ k := by omega
      simp only [Memory.write, if_neg h1, if_neg h2]
      refine Memory.wf_cons.mpr ⟨hu, fun e he => ?_, ih hm⟩
      rcases Memory.mem_write he with he | rfl
      · exact hlt e he
      · exact hak

/-- Every cell of an image is listed at its place in the program. -/
theorem Memory.mem_image {vs : List Int} {base : Nat} {e : Nat × Int} (h : e ∈ Memory.image base vs) :
    base ≤ e.1 ∧ e.1 < base + vs.length ∧ e.2 ∈ vs := by
  induction vs generalizing base with
  | nil => simp [Memory.image] at h
  | cons v vs ih =>
    simp only [Memory.image] at h
    have tail : e ∈ Memory.image (base + 1) vs →
        base ≤ e.1 ∧ e.1 < base + (v :: vs).length ∧ e.2 ∈ v :: vs := fun h => by
      obtain ⟨h1, h2, h3⟩ := ih h
      exact ⟨by omega, by simp only [List.length_cons]; omega, List.mem_cons_of_mem _ h3⟩
    split at h
    · exact tail h
    · rcases List.mem_cons.mp h with rfl | h
      · simp
      · exact tail h

/-- A program's image is in canonical form. -/
theorem Memory.image_wf (base : Nat) (vs : List Int) : Memory.wf (Memory.image base vs) = true := by
  induction vs generalizing base with
  | nil => rfl
  | cons v vs ih =>
    simp only [Memory.image]
    split
    · exact ih _
    · next hv => exact Memory.wf_cons.mpr ⟨hv, fun e he => by have := (Memory.mem_image he).1; omega, ih _⟩

/-- The word of a program's image in a cell: the program's, or 0 beyond it. -/
theorem Memory.read_image (base : Nat) (vs : List Int) (n : Nat) :
    Memory.read (Memory.image base vs) (base + n) = vs.getD n 0 := by
  induction vs generalizing base n with
  | nil => simp [Memory.image, Memory.read]
  | cons v vs ih =>
    have below : Memory.read (Memory.image (base + 1) vs) base = 0 :=
      Memory.read_of_below (fun e he => by have := (Memory.mem_image he).1; omega)
    cases n with
    | zero =>
      by_cases hv : v = 0
      · simpa [Memory.image, hv] using below
      · simp [Memory.image, Memory.read, hv]
    | succ n =>
      have hadd : base + (n + 1) = base + 1 + n := by omega
      have hne : base + 1 + n ≠ base := by omega
      by_cases hv : v = 0
      · simpa [Memory.image, hv, hadd] using ih (base + 1) n
      · simpa [Memory.image, Memory.read, hv, hne, hadd] using ih (base + 1) n

/-- A write of a word to a cell that exists keeps Memory in bounds. -/
theorem Memory.write_inBounds {c : Config} {m : Memory} {a : Nat} {v : Int}
    (hm : Memory.inBounds c m = true) (ha : c.memCells.exceeds a = true) (hv : c.isWord v = true) :
    Memory.inBounds c (Memory.write m a v) = true := by
  simp only [Memory.inBounds, List.all_eq_true, Bool.and_eq_true] at hm ⊢
  intro e he
  rcases Memory.mem_write he with he | rfl
  · exact hm e he
  · exact ⟨ha, hv⟩

/-- 0 is a word of every configuration. -/
theorem isWord_zero (c : Config) : c.isWord 0 = true := by
  unfold Config.isWord
  split
  · simp
  · rfl

/-- Every cell of a Memory in bounds holds a word. -/
theorem Memory.read_isWord {c : Config} {m : Memory} (hm : Memory.inBounds c m = true) (a : Nat) :
    c.isWord (Memory.read m a) = true := by
  induction m with
  | nil => exact isWord_zero c
  | cons e m ih =>
    obtain ⟨k, v⟩ := e
    simp only [Memory.inBounds, List.all_cons, Bool.and_eq_true] at hm
    simp only [Memory.read]
    split
    · exact hm.1.2
    · exact ih hm.2

/-- Memory after reset is in canonical form. -/
theorem reset_mem_wf : Memory.wf State.reset.mem = true := rfl

end Sys2Proof.Machine
end

