-- ==== Sys2Proof/Laws/PerInstr.lean ====
section
/-!
SUPPORT. Laws stated once for each constructor of Instr.

`EncodedWidth`: an instruction whose parameter words are all there is encoded in as many words as its width
(30_encoding.md R70, R72).
-/

namespace Sys2Proof.Laws.EncodedWidth

def Statement (i : Instr) : Prop :=
  ∀ c : Config, i.complete c = true → (encode c i).length = i.width

/-- A complete operand has its parameter word. -/
theorem param_of_complete {c : Config} {o : Operand} (h : o.complete c = true) : ∃ p, o.param = some p := by
  unfold Operand.complete at h
  split at h
  · exact ⟨_, ‹_›⟩
  · cases h

/-- Operands that are all complete give one word each. -/
theorem length_params {c : Config} {os : List (OperandKind × Operand)}
    (h : os.all (fun ko => ko.2.complete c) = true) :
    (os.filterMap (fun ko => ko.2.param)).length = os.length := by
  induction os with
  | nil => rfl
  | cons ko os ih =>
    obtain ⟨ho, hos⟩ := Bool.and_eq_true_iff.mp (List.all_cons ▸ h)
    obtain ⟨p, hp⟩ := param_of_complete ho
    simp [hp, ih hos]

theorem length_encode {c : Config} {i : Instr} (h : i.complete c = true) :
    (encode c i).length = i.operands.length + 1 := by
  simp [encode, length_params h]

theorem add (a b out : Operand) : Statement (.add a b out) := fun _ h => length_encode h
theorem mul (a b out : Operand) : Statement (.mul a b out) := fun _ h => length_encode h
theorem inp (out : Operand) : Statement (.inp out) := fun _ h => length_encode h
theorem out (a : Operand) : Statement (.out a) := fun _ h => length_encode h
theorem jt (a b : Operand) : Statement (.jt a b) := fun _ h => length_encode h
theorem jf (a b : Operand) : Statement (.jf a b) := fun _ h => length_encode h
theorem lt (a b out : Operand) : Statement (.lt a b out) := fun _ h => length_encode h
theorem eq (a b out : Operand) : Statement (.eq a b out) := fun _ h => length_encode h
theorem arb (a : Operand) : Statement (.arb a) := fun _ h => length_encode h
theorem hlt : Statement .hlt := fun _ h => length_encode h

end Sys2Proof.Laws.EncodedWidth
end

