-- ==== Sys2Proof/Machine/ProgramText.lean ====
section
/-!
DEFINITION. The program source of 30_encoding.md R93, and the spec's own assembly text of one instruction (R94).

The text is transport only (00_scope.md R6). A text that is not of R93's grammar, or that holds an integer outside the word
range, yields no program (R93).
-/

namespace Sys2Proof.Machine

/-- The value of a decimal digit. -/
def digitValue (ch : Char) : Option Nat :=
  if '0' ≤ ch ∧ ch ≤ '9' then some (ch.toNat - '0'.toNat) else none

/-- `digit { digit }`, its value so far `acc`; the empty text is taken as its end. -/
def digitsValue (acc : Nat) : List Char → Option Nat
  | [] => some acc
  | ch :: rest =>
    match digitValue ch with
    | some d => digitsValue (10 * acc + d) rest
    | none => none

/-- `digit { digit }`. -/
def numeral : List Char → Option Nat
  | [] => none
  | ch :: rest => digitsValue 0 (ch :: rest)

/-- `integer = [ "-" ] digit { digit }` (30_encoding.md R93). -/
def integerOfText : List Char → Option Int
  | '-' :: rest => (numeral rest).map (fun n => -(n : Int))
  | text => (numeral text).map (fun n => (n : Int))

/-- The parts of a text between its commas. -/
def commaParts : List Char → List (List Char)
  | [] => [[]]
  | ch :: rest =>
    match commaParts rest with
    | [] => [[ch]]
    | part :: parts => if ch = ',' then [] :: part :: parts else (ch :: part) :: parts

/-- All of them, or none. -/
def allSome : List (Option Int) → Option (List Int)
  | [] => some []
  | none :: _ => none
  | some v :: rest => (allSome rest).map (v :: ·)

/-- `program = integer { "," integer }` (30_encoding.md R93); every integer a word, else there is no program. -/
def programOfText (c : Config) (text : List Char) : Option (List Int) :=
  match allSome ((commaParts text).map integerOfText) with
  | some ws => if ws.all c.isWord then some ws else none
  | none => none

/-- An operand's text (30_encoding.md R94); none for an operand R94 has no text for. -/
def operandText (o : Operand) : Option String :=
  match o.mode, o.param with
  | .position, some p => some ("[" ++ toString p ++ "]")
  | .immediate, some p => some ("#" ++ toString p)
  | .relative, some p => some (if p < 0 then "[rb" ++ toString p ++ "]" else "[rb+" ++ toString p ++ "]")
  | .reserved _, _ => none
  | _, none => none

/-- The mnemonics of 30_encoding.md R75. -/
def mnemonicText : Opcode → String
  | .add => "ADD"
  | .mul => "MUL"
  | .inp => "IN"
  | .out => "OUT"
  | .jt => "JT"
  | .jf => "JF"
  | .lt => "LT"
  | .eq => "EQ"
  | .arb => "ARB"
  | .hlt => "HLT"

/-- `MNEMONIC operand {, operand}` (30_encoding.md R94). -/
def instrText (i : Instr) : Option String :=
  match i.operands.mapM (fun ko => operandText ko.2) with
  | some [] => some (mnemonicText i.opcode)
  | some texts => some (mnemonicText i.opcode ++ " " ++ String.intercalate ", " texts)
  | none => none

end Sys2Proof.Machine
end

