-- ==== Sys2Proof/Tests/Slice0.lean ====
section
/-!
SUPPORT. Tests and witnesses.

`test_…`: expected results are the spec's, from 95_test_vectors.md (the vector's id stands in the name), from the worked
encodings of 30_encoding.md R96, or worked out by hand from the rule cited. `witness_…`: for each statement that has
hypotheses, a state and operands that meet all of them together.
-/

namespace Sys2Proof.Tests

open Sys2Proof Sys2Proof.Machine

/-! ## Helpers -/

/-- The core in `RUN` at cell 0 of a program, default parameters. -/
def running (words : List Int) : State :=
  { State.reset with mem := Memory.image 0 words, runState := .run }

/-- A cell set by hand. -/
def poke (s : State) (a : Nat) (v : Int) : State := { s with mem := s.mem.write a v }

/-- The words from cell `a` on, the cells before it 0, `pc` there. -/
def runningAt (a : Nat) (words : List Int) : State :=
  { running [] with mem := Memory.image a words, pc := a }

/-- A Memory of `n` cells, with `MARGIN = 0`. -/
def small (n : Nat) (s : State) : State :=
  { s with cfg := { s.cfg with memCells := .finite n, margin := 0 } }

/-- The host's turn with a command. -/
def offered (c : Command) (s : State) : State := { s with schedule := [.host c] }

/-- The state after one step, the same state where the step stops. -/
def after (s : State) : State :=
  match step s with
  | .next t => t
  | .fault _ => s
  | .refused _ => s

/-- "fault c/p/i" of 95_test_vectors.md, with Memory, `pc`, `rb` and `Q` unchanged. -/
def faults (s : State) (c : BitVec 3) (p : Nat) (i : Int) : Bool :=
  let t := after s
  decide (t.runState = .faulted) && decide (t.fcause.code = c) && decide (t.fpc = p) && decide (t.finfo = i) &&
    decide (t.mem = s.mem) && decide (t.pc = s.pc) && decide (t.rb = s.rb) && decide (t.q = s.q)

/-- A cell and `pc` after one step in which no fault was taken. -/
def cellAndPc (s : State) (a : Nat) : Option (Int × Nat) :=
  let t := after s
  if t.fcause = .noFault then some (t.mem.read a, t.pc) else none

def position (p : Int) : Operand := ⟨.position, some p⟩
def immediate (p : Int) : Operand := ⟨.immediate, some p⟩
def relative (p : Int) : Operand := ⟨.relative, some p⟩

/-- One word queued. -/
def fed (words : List Int) (v : Int) : State := { running words with q := [v] }

/-! ## WellFormed refuses -/

theorem test_wf_accepts : (Instr.add (position 26) (immediate (-4)) (relative 26)).wf Config.default = true := by decide

/-- A parameter word that is not there. -/
theorem test_wf_refuses_missing_parameter : (Instr.out ⟨.immediate, none⟩).wf Config.default = false := by decide

/-- 2^63 is no word of 64 bits (00_scope.md R8); 2^63 - 1 is. -/
theorem test_wf_refuses_value_outside_the_word_range :
    (Instr.out (immediate 9223372036854775808)).wf Config.default = false ∧
    (Instr.out (immediate 9223372036854775807)).wf Config.default = true ∧
    (Instr.out (immediate (-9223372036854775808))).wf Config.default = true ∧
    (Instr.out (immediate (-9223372036854775809))).wf Config.default = false := by decide

/-- 30_encoding.md R79. -/
theorem test_wf_refuses_reserved_mode : (Instr.arb ⟨.reserved 0, some 1⟩).wf Config.default = false := by decide

/-- 30_encoding.md R81. -/
theorem test_wf_refuses_immediate_destination :
    (Instr.inp (immediate 26)).wf Config.default = false ∧
    (Instr.eq (immediate 1) (immediate 1) (immediate 26)).wf Config.default = false := by decide

/-! ## Decoding words written out from the spec -/

theorem test_decode_add : decode Config.default [1001, 26, -4, 26] =
    .ok (.add (position 26) (immediate (-4)) (position 26)) := rfl
theorem test_decode_mul : decode Config.default [1002, 27, 2, 27] =
    .ok (.mul (position 27) (immediate 2) (position 27)) := rfl
theorem test_decode_in : decode Config.default [3, 26] = .ok (.inp (position 26)) := rfl
theorem test_decode_out : decode Config.default [204, -1] = .ok (.out (relative (-1))) := rfl
theorem test_decode_jt : decode Config.default [1005, 28, 6] = .ok (.jt (position 28) (immediate 6)) := rfl
/-- Program P1, cell 12. -/
theorem test_decode_jf : decode Config.default [1006, 101, 0] = .ok (.jf (position 101) (immediate 0)) := rfl
theorem test_decode_lt : decode Config.default [21107, 3, 4, -2] =
    .ok (.lt (immediate 3) (immediate 4) (relative (-2))) := rfl
/-- Program P1, cell 8. -/
theorem test_decode_eq : decode Config.default [1008, 100, 16, 101] =
    .ok (.eq (position 100) (immediate 16) (position 101)) := rfl
theorem test_decode_arb : decode Config.default [109, 19] = .ok (.arb (immediate 19)) := rfl
theorem test_decode_hlt : decode Config.default [99] = .ok .hlt := rfl

/-- 30_encoding.md R74, R77: 0, a negative word, 10, 98, no word at all. -/
theorem test_decode_rejects :
    decode Config.default [0] = .error (.unknownOpcode 0) ∧
    decode Config.default [-199] = .error (.unknownOpcode (-99)) ∧
    decode Config.default [10] = .error (.unknownOpcode 10) ∧
    decode Config.default [98] = .error (.unknownOpcode 98) ∧
    decode Config.default [] = .error .noWord := ⟨rfl, rfl, rfl, rfl, rfl⟩

/-- 30_encoding.md R79: the digits 3 and 9 are reserved modes. -/
theorem test_decode_reserved_modes :
    decode Config.default [304, 1] = .ok (.out ⟨.reserved 0, some 1⟩) ∧
    decode Config.default [904, 1] = .ok (.out ⟨.reserved 6, some 1⟩) := ⟨rfl, rfl⟩

/-- 30_encoding.md R71: three mode digits that all differ, and its word. -/
theorem test_encode_word :
    encode Config.default (.add (relative 2) (immediate 6) (position 7)) = [1201, 2, 6, 7] ∧
    encode Config.default (.jf (immediate 1) (relative (-3))) = [2106, 1, -3] := ⟨rfl, rfl⟩

/-- The first cell of a numbered word is its 64 low bits; -1 is 2^64 - 1 in two's complement. -/
theorem test_decodeTableWord :
    decodeTableWord 8 99 = some .hlt ∧
    decodeTableWord 128 (204 + (2 ^ 64 - 1) * 2 ^ 64) = some (.out (relative (-1))) ∧
    decodeTableWord 8 0 = none := ⟨rfl, rfl, rfl⟩

/-! ## One step of each instruction -/

theorem test_step_add_A1 : cellAndPc (poke (running [1001, 26, -4, 26]) 26 9) 26 = some (5, 4) := by decide
theorem test_step_add_A2 : faults (running [1101, 9223372036854775807, 1, 5, 0, 77]) 7 0 0 = true := by decide
theorem test_step_mul_M3 :
    cellAndPc (running [1102, 3037000499, 3037000499, 5]) 5 = some (9223372030926249001, 4) := by decide
theorem test_step_mul_M4 : faults (running [1102, -9223372036854775808, -1, 5]) 7 0 0 = true := by decide
theorem test_step_lt_L1 : cellAndPc { running [21107, 3, 4, -2] with rb := 10 } 8 = some (1, 4) := by decide
theorem test_step_lt_L2 : cellAndPc (running [1107, 4, 4, 5, 0, 9]) 5 = some (0, 4) := by decide
theorem test_step_eq_E1 : cellAndPc (poke (runningAt 8 [1008, 100, 16, 101]) 100 16) 101 = some (1, 12) := by decide
theorem test_step_eq_E5 : cellAndPc (running [108, 0, 5, 6, 0, 9, 77]) 6 = some (0, 4) := by decide
theorem test_step_in_I1 :
    cellAndPc { running [3, 26] with q := [9, 0] } 26 = some (9, 2) ∧
    (after { running [3, 26] with q := [9, 0] }).q = [0] ∧
    (after { running [3, 26] with q := [9, 0] }).runState = .run := by decide
theorem test_step_in_I7 : faults { running [203, -9] with rb := 4, q := [1] } 6 0 (-5) = true := by decide
theorem test_step_out_O1 :
    (after (poke (runningAt 16 [4, 27]) 27 5)).ports.outData = 5 ∧
    (after (poke (runningAt 16 [4, 27]) 27 5)).outValid = true ∧
    (after (poke (runningAt 16 [4, 27]) 27 5)).pc = 18 ∧
    (after (poke (runningAt 16 [4, 27]) 27 5)).runState = .suspended := by decide
theorem test_step_out_O5 :
    faults (running [4, -3]) 6 0 (-3) = true ∧ (after (running [4, -3])).outValid = false := by decide
theorem test_step_jt_J1 : (after (poke (runningAt 22 [1005, 28, 6]) 28 4)).pc = 6 := by decide
theorem test_step_jt_J7 : faults (running [105, 0, -9]) 6 0 (-9) = true := by decide
theorem test_step_jf_J9 : (after (runningAt 12 [1006, 101, 0])).pc = 0 := by decide
theorem test_step_jf_J10 : (after (poke (runningAt 12 [1006, 101, 0]) 101 1)).pc = 15 := by decide
theorem test_step_arb_B2 : (after { running [109, -30] with rb := 10 }).rb = -20 := by decide
theorem test_step_arb_B4 : faults { running [109, 1] with rb := 9223372036854775807 } 7 0 0 = true := by decide
theorem test_step_hlt_H1 :
    (after (runningAt 25 [99])).runState = .halted ∧ (after (runningAt 25 [99])).pc = 25 := by decide
theorem test_step_hlt_T6 : (after (running [199])).runState = .halted := by decide

/-! ## Decoding faults, their order, and the ends of Memory -/

theorem test_fault_T8 : faults (running [301, 1, 1, 1]) 5 0 1 = true := by decide
theorem test_fault_T9 : faults (running [10001, 1, 1, 1]) 2 0 3 = true := by decide
theorem test_fault_T12 : faults (running [-199]) 1 0 (-99) = true := by decide
theorem test_fault_T16 : faults (running [10301, 1, 1, 1]) 5 0 1 = true := by decide
theorem test_fault_X1 : faults (small 3 (running [1, 0, 0])) 6 0 3 = true := by decide
theorem test_fault_X2 : faults (small 1 (running [55])) 1 0 55 = true := by decide
theorem test_fault_X3_second_step : faults (small 2 { running [109, 0] with pc := 2 }) 6 2 2 = true := by decide
theorem test_fault_J13 : faults (small 100 (running [1105, 1, 100])) 6 0 100 = true := by decide
theorem test_step_J14 : (after (small 100 (running [1105, 1, 99]))).pc = 99 := by decide
theorem test_step_X5 : cellAndPc (small 8 (running [1101, 1, 1, 7])) 7 = some (2, 4) := by decide

/-! ## The host, and the text of a program -/

/-- Scenario S3, its second `RUN`. -/
theorem test_run_S3 : faults (offered .run { running [99] with runState := .halted }) 4 0 0 = true := by decide

/-- Scenario S1: a word pushed in `SUSPENDED`. -/
theorem test_enqueue_S1 :
    (after (offered (.enqueue 6) { running [] with runState := .suspended })).q = [6] := by decide

/-- 47_host_commands.md R151: with 8 cells and `MARGIN = 2`, six words fit and seven do not. -/
theorem test_construct_margin :
    (State.offer { State.reset with cfg := { Config.default with memCells := .finite 8, margin := 2 }, q := [5] }
      (.construct [1, 2, 3, 4, 5, 6] [])).q = [] ∧
    (State.offer { State.reset with cfg := { Config.default with memCells := .finite 8, margin := 2 }, q := [5] }
      (.construct [1, 2, 3, 4, 5, 6, 7] [])).q = [5] := by decide

/-- 30_encoding.md R93: a sign, no leading plus, no empty text, no trailing comma, no space, no integer too wide. -/
theorem test_program_text :
    programOfText Config.default ['3', ',', '2', '6', ',', '-', '4'] = some [3, 26, -4] ∧
    programOfText Config.default ['+', '3'] = none ∧
    programOfText Config.default [] = none ∧
    programOfText Config.default ['3', ','] = none ∧
    programOfText Config.default ['3', ',', ' ', '4'] = none ∧
    programOfText Config.default ['-'] = none ∧
    programOfText Config.default
      (['9', '2', '2', '3', '3', '7', '2', '0', '3', '6'] ++ ['8', '5', '4', '7', '7', '5', '8', '0', '8']) = none := by
  decide

/-! ## Witnesses of the statements' hypotheses -/

/-- A configuration of 8 cells, no margin and a FIFO of one word. -/
def tiny : Config :=
  { Config.default with memCells := .finite 8, margin := 0, fifoDepth := .finite 1 }

theorem witness_config_wf : tiny.wf = true ∧ Config.default.wf = true := by decide

/-- The program that fills the 8 cells and the one input that fills the FIFO fit. -/
theorem witness_ConstructSetsEveryRegister :
    ({ State.reset with cfg := tiny } : State).fits [1, 2, 3, 4, 5, 6, 7, 8] [9] ∧
    ({ State.reset with constructed := false } : State).constructed = false := by
  refine ⟨⟨rfl, rfl, ?_, ?_⟩, rfl⟩ <;> decide

/-- Nine words do not fit in 8 cells, two inputs do not fit in one place, 2^63 is no word. -/
theorem witness_ConstructIsRefusedExactlyWhenItDoesNotFit :
    (∃ r, hostCommand (.construct [1, 2, 3, 4, 5, 6, 7, 8, 9] []) { State.reset with cfg := tiny } = .refused r) ∧
    (∃ r, hostCommand (.construct [] [1, 2]) { State.reset with cfg := tiny } = .refused r) ∧
    (∃ r, hostCommand (.construct [9223372036854775808] []) { State.reset with cfg := tiny } = .refused r) :=
  ⟨⟨_, rfl⟩, ⟨_, rfl⟩, ⟨_, rfl⟩⟩

/-- An empty FIFO of one place, then a full one, then one without bound. -/
theorem witness_EnqueueAppendsUnlessFull :
    tiny.isWord 9223372036854775807 = true ∧
    tiny.fifoDepth.exceeds ([] : List Int).length = true ∧
    tiny.fifoDepth.exceeds [(7 : Int)].length = false ∧
    Config.default.fifoDepth = .inf ∧ State.reset.constructed = true := by decide

theorem witness_RunStartsTheCore :
    State.reset.constructed = true ∧ State.reset.runState = .ready ∧
    ({ State.reset with runState := .suspended } : State).runState = .suspended := by decide

theorem witness_RunAfterHaltFaultsWithAlreadyHalted :
    ({ running [99] with runState := .halted } : State).constructed = true ∧
    ({ running [99] with runState := .halted } : State).runState = .halted := by decide

theorem witness_RunWhileRunningOrFaultedIsRefused :
    (running []).constructed = true ∧ (running []).runState = .run ∧
    ({ running [] with runState := .faulted } : State).runState = .faulted := by decide

theorem witness_UnconstructedCoreStops : ({ State.reset with constructed := false } : State).constructed = false := rfl

/-- An empty, a part filled and a full FIFO of two places, and one without bound. -/
theorem witness_StatusCodesAreTheTables :
    ({ State.reset with cfg := { tiny with fifoDepth := .finite 2 } } : State).cfg.fifoDepth = .finite 2 ∧
    ({ State.reset with cfg := { tiny with fifoDepth := .finite 2 } } : State).ports.inReady = true ∧
    ({ State.reset with cfg := { tiny with fifoDepth := .finite 2 }, q := [1] } : State).ports.inReady = true ∧
    ({ State.reset with cfg := { tiny with fifoDepth := .finite 2 }, q := [1, 2] } : State).ports.inReady = false ∧
    [(1 : Int), 2].length ≤ 2 ∧ State.reset.cfg.fifoDepth = .inf := by decide

/-- Every mode, the extremes of the word range, an ill-formed destination, and words behind the instruction. -/
theorem witness_DecodeOfEncodeIsTheInstruction :
    Config.default.wf = true ∧
    (Instr.add (relative 9223372036854775807) ⟨.reserved 6, some (-9223372036854775808)⟩ (immediate 0)).complete
      Config.default = true := by decide

/-- 901004 and 4 agree in `op` and in the mode digit of OUT's one operand. -/
theorem witness_DigitsOfNoOperandAreIgnored :
    (901004 : Int).toNat % 100 = (4 : Int).toNat % 100 ∧
    decode Config.default [4, 27] = .ok (.out (position 27)) ∧
    (Instr.out (position 27)).operands.length = 1 ∧
    digit (901004 : Int).toNat 2 = digit (4 : Int).toNat 2 := ⟨rfl, rfl, rfl, rfl⟩

theorem witness_NegativeWordRaisesUnknownOpcode :
    (running [-199]).constructed = true ∧ (running [-199]).runState = .run ∧
    (running [-199]).memRead (running [-199]).pc = .ok (-199) ∧ (-199 : Int) < 0 := ⟨rfl, rfl, rfl, by decide⟩

theorem witness_UnknownOpcodeIsIllegal :
    (running [98]).memRead (running [98]).pc = .ok 98 ∧
    (98 : Int).toNat % 100 ∉ (running [98]).cfg.opc.toList := ⟨rfl, by decide⟩

/-- `pc = MEM_CELLS`, the first place beyond the last cell. -/
theorem witness_FetchBeyondMemoryFaults :
    (small 2 { running [109, 0] with pc := 2 }).constructed = true ∧
    (small 2 { running [109, 0] with pc := 2 }).runState = .run ∧
    (small 2 { running [109, 0] with pc := 2 }).cfg.memCells.exceeds 2 = false := by decide

theorem witness_StepRunsTheDecodedInstruction :
    (running [109, 19]).constructed = true ∧ (running [109, 19]).runState = .run ∧
    (running [109, 19]).nextEvent.1 = .core ∧
    decode (running [109, 19]).cfg (running [109, 19]).fetched = .ok (.arb (immediate 19)) := ⟨rfl, rfl, rfl, rfl⟩

/-- The instruction ends at the last cell of Memory. -/
theorem witness_InstructionInMemoryIsExecuted :
    (small 8 (runningAt 4 [1101, 1, 1, 7])).cfg.wf = true ∧
    (Instr.add (immediate 1) (immediate 1) (position 7)).complete (small 8 (runningAt 4 [1101, 1, 1, 7])).cfg = true ∧
    (∀ k, k < 4 → (small 8 (runningAt 4 [1101, 1, 1, 7])).mem.read (4 + k) =
      (encode Config.default (.add (immediate 1) (immediate 1) (position 7))).getD k 0) ∧
    (small 8 (runningAt 4 [1101, 1, 1, 7])).cfg.memCells.exceeds (4 + (4 - 1)) = true := by decide

/-- Both ends of Memory for each clause on an address, and a base whose sum is not a word. -/
theorem witness_SourceOperandByMode_and_DestinationOperandByMode :
    (small 8 (running [])).inMemory 0 = true ∧ (small 8 (running [])).inMemory 7 = true ∧
    (small 8 (running [])).inMemory 8 = false ∧ (small 8 (running [])).inMemory (-1) = false ∧
    (running []).cfg.isWord (9223372036854775807 + 0) = true ∧
    (running []).cfg.isWord (9223372036854775807 + 1) = false := by decide

theorem witness_FirstOperandFaultIsTaken :
    (running []).operandFault 1 (Instr.add (position (-1)) ⟨.reserved 0, some 0⟩ (immediate 0)).operands =
      some ⟨.addressOutOfRange, -1⟩ ∧
    (running []).operandFault 1 (Instr.inp (immediate 26)).operands = some ⟨.invalidDestinationMode, 1⟩ := ⟨rfl, rfl⟩

/-- For ADD, MUL, LT, EQ alike: sources and a destination that resolve, the last cell among them. -/
theorem witness_ComputingOperands :
    (small 8 { running [5] with rb := 3 }).srcVal 1 (position 0) = .ok 5 ∧
    (small 8 { running [5] with rb := 3 }).srcVal 2 (immediate (-4)) = .ok (-4) ∧
    (small 8 { running [5] with rb := 3 }).dstAddr 3 (relative 4) = .ok 7 ∧
    (running []).cfg.isWord (5 + -4) = true ∧ (running []).cfg.isWord (5 * -4) = true := ⟨rfl, rfl, rfl, rfl, rfl⟩

/-- The largest sum that is a word and the next one; the square of 3037000500 (vector M2); the same for ARB. -/
theorem witness_ResultsAreExactOrFault :
    (running []).mem.wf = true ∧
    (running []).cfg.isWord (9223372036854775806 + 1) = true ∧
    (running []).cfg.isWord (9223372036854775807 + 1) = false ∧
    (running []).cfg.isWord (3037000500 * 3037000500) = false ∧
    (running []).srcVal 1 (immediate 1) = .ok 1 ∧
    ({ Config.default with xlen := .inf } : Config).xlen = .inf := ⟨rfl, rfl, rfl, rfl, rfl, rfl⟩

theorem witness_InputPopsTheHead :
    (fed [] 9).dstAddr 1 (position 26) = .ok 26 ∧ (fed [] 9).q = 9 :: [] := ⟨rfl, rfl⟩

theorem witness_InputFromEmptyQueueUnderflows :
    (running []).dstAddr 1 (position 26) = .ok 26 ∧ (running []).q = [] := ⟨rfl, rfl⟩

theorem witness_OutputLatchesAndSuspends :
    (running []).srcVal 1 (immediate 1125899906842624) = .ok 1125899906842624 := rfl

/-- For JT and JF: a value that is 0, one that is not, and targets at both ends of Memory and just beyond. -/
theorem witness_Jumps :
    (small 8 (running [])).srcVal 1 (immediate 0) = .ok 0 ∧ (small 8 (running [])).srcVal 1 (immediate (-5)) = .ok (-5) ∧
    (small 8 (running [])).srcVal 2 (immediate 7) = .ok 7 ∧ (small 8 (running [])).srcVal 2 (immediate 8) = .ok 8 ∧
    (small 8 (running [])).inMemory 7 = true ∧ (small 8 (running [])).inMemory 8 = false ∧
    (small 8 (running [])).srcVal 2 (immediate (-7)) = .ok (-7) ∧ (small 8 (running [])).inMemory (-7) = false :=
  ⟨rfl, rfl, rfl, rfl, rfl, rfl, rfl, rfl⟩

theorem witness_AdjustBaseAddsToTheBase :
    ({ running [] with rb := 10 } : State).srcVal 1 (immediate (-30)) = .ok (-30) ∧
    ({ running [] with rb := 10 } : State).cfg.isWord (10 + -30) = true := ⟨rfl, rfl⟩

/-- A completed and a faulting instruction; a destination that resolves and one that does not. -/
theorem witness_ComputingInstructionsFrame :
    (∃ t, exec (.add (immediate 1) (immediate 2) (position 7)) (running []) = .next t) ∧
    (running []).dstAddr 3 (position 7) = .ok 7 ∧
    (∃ t, exec (.eq (immediate 1) (immediate 2) (immediate 7)) (running []) = .next t) ∧
    (running []).dstAddr 3 (immediate 7) = .error ⟨.invalidDestinationMode, 3⟩ := ⟨⟨_, rfl⟩, rfl, ⟨_, rfl⟩, rfl⟩

theorem witness_InputFrame :
    (∃ t, exec (.inp (position 26)) (fed [] 9) = .next t ∧ t.runState = .run) ∧
    (∃ t, exec (.inp (position (-1))) (fed [] 9) = .next t ∧ t.runState = .faulted) := ⟨⟨_, rfl, rfl⟩, ⟨_, rfl, rfl⟩⟩

theorem witness_NonStoringInstructionsFrame :
    (∃ t, exec (.out (immediate 1)) (running []) = .next t) ∧
    (∃ t, exec (.jt (immediate 1) (immediate 7)) (running []) = .next t) ∧
    (∃ t, exec (.jf (immediate 1) (immediate 7)) (running []) = .next t) ∧
    (∃ t, exec (.arb (immediate 1)) (running []) = .next t) ∧
    (∃ t, exec .hlt (running []) = .next t) := ⟨⟨_, rfl⟩, ⟨_, rfl⟩, ⟨_, rfl⟩, ⟨_, rfl⟩, ⟨_, rfl⟩⟩

theorem witness_FaultsArePrecise :
    (running [4, -3]).runState = .run ∧ ∃ t, coreStep (running [4, -3]) = .next t ∧ t.runState = .faulted :=
  ⟨rfl, _, rfl, rfl⟩

/-- A completed jump and a faulting one. -/
theorem witness_PcAfterEachInstruction :
    (∃ t, decode Config.default (running [1105, 1, 0]).fetched = .ok (.jt (immediate 1) (immediate 0)) ∧
      exec (.jt (immediate 1) (immediate 0)) (running [1105, 1, 0]) = .next t ∧ t.runState ≠ .faulted) ∧
    (∃ t, decode Config.default (running [1105, 1, -7]).fetched = .ok (.jt (immediate 1) (immediate (-7))) ∧
      exec (.jt (immediate 1) (immediate (-7))) (running [1105, 1, -7]) = .next t ∧ t.runState = .faulted) :=
  ⟨⟨_, rfl, rfl, by decide⟩, ⟨_, rfl, rfl, by decide⟩⟩

/-- `rb` changed by ARB, and by a CONSTRUCT. -/
theorem witness_OnlyAdjustBaseWritesTheBase :
    (∃ t, step (running [109, 19]) = .next t ∧ t.rb ≠ 0) ∧
    (∃ t, step (offered (.construct [] []) { running [] with rb := 5 }) = .next t ∧ t.rb ≠ 5) :=
  ⟨⟨_, rfl, by decide⟩, ⟨_, rfl, by decide⟩⟩

/-- A command, the core in `RUN`, the core outside it. -/
theorem witness_StateTransitionsAreTheTable :
    (∃ t, step (offered .run State.reset) = .next t ∧ t.runState = .run) ∧
    (∃ t, step (running [99]) = .next t ∧ t.runState = .halted) ∧
    (∃ t, step State.reset = .next t ∧ t.runState = .ready) := ⟨⟨_, rfl, rfl⟩, ⟨_, rfl, rfl⟩, ⟨_, rfl, rfl⟩⟩

/-- The invariant holds of a state that has queued words, a negative base, written cells, and steps to another. -/
theorem witness_StepKeepsTheInvariant :
    State.Inv { running [3, 26] with cfg := tiny, mem := [(0, 3), (1, 7)], rb := -20, q := [9] } ∧
    ∃ t, step { running [3, 26] with cfg := tiny, mem := [(0, 3), (1, 7)], rb := -20, q := [9] } = .next t ∧
      t.mem.read 7 = 9 :=
  ⟨by constructor <;> decide, _, rfl, rfl⟩

/-- A `CONSTRUCT` that fills the tiny Memory and FIFO, on an instance never constructed whose fields hold what no run
leaves there. -/
theorem witness_StepKeepsTheInvariant_first_construct :
    tiny.wf = true ∧ ({ State.reset with cfg := tiny } : State).fits [1, 2, 3, 4, 5, 6, 7, 8] [9] ∧
    ({ offered (.construct [1, 2, 3, 4, 5, 6, 7, 8] [9]) State.reset with
        cfg := tiny, constructed := false, pc := 100, outValid := true } : State).nextEvent.1 =
      .host (.construct [1, 2, 3, 4, 5, 6, 7, 8] [9]) := by
  refine ⟨rfl, ⟨rfl, rfl, ?_, ?_⟩, rfl⟩ <;> decide

/-- `ENQUEUE` in `FAULTED`, and the core's turn there. -/
theorem witness_FaultIsStickyUntilConstruct :
    (∃ t, step (offered (.enqueue 7) { running [] with runState := .faulted, fcause := .inputUnderflow }) = .next t) ∧
    (∃ t, step { running [] with runState := .faulted, fcause := .inputUnderflow } = .next t) ∧
    (∀ program inputs, Event.host (.enqueue 7) ≠ .host (.construct program inputs)) :=
  ⟨⟨_, rfl⟩, ⟨_, rfl⟩, by intro p q h; injection h with h; cases h⟩

theorem witness_HaltedNeverRunsAgain :
    (∃ t, step (offered .run { running [] with runState := .halted }) = .next t) ∧
    (∃ t, step (offered (.enqueue 7) { running [] with runState := .halted }) = .next t) ∧
    (∃ t, step { running [] with runState := .halted } = .next t) := ⟨⟨_, rfl⟩, ⟨_, rfl⟩, ⟨_, rfl⟩⟩

theorem witness_IdleCoreKeepsAllState : State.reset.constructed = true ∧ State.reset.runState ≠ .run := by decide

/-- A pop, a push, both commands that leave or replace `Q`, within a FIFO of one place. -/
theorem witness_QueueIsFirstInFirstOut :
    (∃ t, step { fed [3, 7] 9 with cfg := tiny } = .next t ∧ t.q = []) ∧
    (∃ t, step (offered (.enqueue 7) { running [] with cfg := tiny }) = .next t ∧ t.q = [7]) ∧
    (∃ t, step (offered .run State.reset) = .next t ∧ t.q = []) ∧
    (∃ t, step (offered (.construct [] [4]) State.reset) = .next t ∧ t.q = [4]) ∧
    tiny.fifoDepth.allows (fed [3, 7] 9).q.length = true :=
  ⟨⟨_, rfl, rfl⟩, ⟨_, rfl, rfl⟩, ⟨_, rfl, rfl⟩, ⟨_, rfl, rfl⟩, rfl⟩

/-- `OUT_VALID` set by OUT, and cleared by RUN. -/
theorem witness_OutputRegisterChangesOnlyByOutRunConstruct :
    (∃ t, step (running [104, 5]) = .next t ∧ t.outValid ≠ false) ∧
    (∃ t, step (offered .run { running [] with runState := .suspended, outValid := true }) = .next t ∧
      t.outValid ≠ true) := ⟨⟨_, rfl, by decide⟩, ⟨_, rfl, by decide⟩⟩

theorem witness_MemoryChangesOnlyByStoresAndConstruct :
    (∃ t, step (running [1101, 50, 49, 0]) = .next t ∧ t.mem.read 0 ≠ 1101) ∧
    (∃ t, step (offered (.construct [5] []) State.reset) = .next t ∧ t.mem.read 0 ≠ 0) :=
  ⟨⟨_, rfl, by decide⟩, ⟨_, rfl, by decide⟩⟩

/-- The last word of an instruction that ends at the last cell. -/
theorem witness_StoredWordIsFetchedNext :
    (running []).mem.wf = true ∧ (3 : Nat) < 4 ∧ 4 + 3 = 7 ∧ (small 8 (running [])).cfg.memCells.exceeds 7 = true := by
  decide

theorem witness_ParametersNeverChange : ∃ t, step (running [99]) = .next t ∧ (running [99]).constructed = true :=
  ⟨_, rfl, rfl⟩

theorem witness_StatusRegistersAreInvisibleToTheProgram : ∃ t, coreStep (running [104, 5]) = .next t := ⟨_, rfl⟩

/-- Writing a cell and writing 0 back gives the memory back. -/
theorem witness_CanonicalMemoriesThatReadAlikeAreEqual :
    Memory.wf [(3, 5), (9, -1)] = true ∧
    Memory.wf ((Memory.write [(3, 5), (9, -1)] 4 8).write 4 0) = true ∧
    ∀ a, Memory.read [(3, 5), (9, -1)] a = Memory.read ((Memory.write [(3, 5), (9, -1)] 4 8).write 4 0) a :=
  ⟨rfl, rfl, fun _ => rfl⟩

/-- The three results of a run, from states that satisfy the invariant as State.reset does. -/
theorem witness_RunResultsAreTheTable :
    (∃ t, runUntilOutputOrHalt 1 { State.reset with mem := [(0, 104), (1, 5)] } = .output 5 t) ∧
    (∃ t, runUntilOutputOrHalt 1 { State.reset with mem := [(0, 99)] } = .halted t) ∧
    (∃ t, runUntilOutputOrHalt 1 State.reset = .faulted t) ∧
    State.Inv { State.reset with mem := [(0, 104), (1, 5)] } ∧ State.Inv { State.reset with mem := [(0, 99)] } ∧
    State.Inv State.reset :=
  ⟨⟨_, rfl⟩, ⟨_, rfl⟩, ⟨_, rfl⟩, by constructor <;> decide, by constructor <;> decide, by constructor <;> decide⟩

/-- A core in RUN that steps, a state outside RUN, and an accepted RUN for each STATE that waiting may end in. -/
theorem witness_WaitingStepsTheCoreWhileInRun :
    (∃ t, coreStep (running [99]) = .next t) ∧ (running [99]).runState = .run ∧ State.reset.runState ≠ .run ∧
    (waitWhileRunning 1 (running [99])).runState ≠ .run ∧
    (∃ w, hostRun { State.reset with mem := [(0, 104), (1, 5)] } = .next w ∧
      (waitWhileRunning 1 w).runState = .suspended ∧ (waitWhileRunning 0 w).runState = .run) ∧
    (∃ w, hostRun { State.reset with mem := [(0, 99)] } = .next w ∧ (waitWhileRunning 1 w).runState = .halted) ∧
    (∃ w, hostRun State.reset = .next w ∧ (waitWhileRunning 1 w).runState = .faulted) :=
  ⟨⟨_, rfl⟩, rfl, by decide, by decide, ⟨_, rfl, rfl, rfl⟩, ⟨_, rfl, rfl⟩, ⟨_, rfl, rfl⟩⟩

/-- A run for each clause, and a list returned: the first run's output, then none of the second's. -/
theorem witness_CollectEndsHaltedWithOutputsAppended :
    (∃ t, runUntilOutputOrHalt 1 { State.reset with mem := [(0, 104), (1, 5), (2, 99)] } = .output 5 t) ∧
    (∃ t, runUntilOutputOrHalt 1 { State.reset with mem := [(0, 99)] } = .halted t) ∧
    (∃ t, runUntilOutputOrHalt 1 State.reset = .faulted t) ∧
    (∃ t, collectAllOutputs 1 2 [4] { State.reset with mem := [(0, 104), (1, 5), (2, 99)] } = .outputs [4, 5] t) :=
  ⟨⟨_, rfl⟩, ⟨_, rfl⟩, ⟨_, rfl⟩, ⟨_, rfl⟩⟩

/-- A ring of two like instances. -/
def ringOfTwo (s : State) (turn : Nat) : Ring := { insts := [s, s], signal := 7, turn := turn }

/-- Both commands of a visit accepted, and what the instance is in after waiting for one step, or for none. -/
def visitEnds (fuel : Nat) (s : State) (v : Int) (e : RunState) : Prop :=
  s.runState ≠ .halted ∧
    ∃ u w, hostEnqueue v s = .next u ∧ hostRun u = .next w ∧ (waitWhileRunning fuel w).runState = e

/-- An instance for each clause; a halted one; one whose FIFO is full; one still in RUN. -/
theorem witness_RingVisitFeedsThenRuns :
    (ringOfTwo { State.reset with runState := .halted } 1).insts[1]? = some { State.reset with runState := .halted } ∧
    visitEnds 1 { State.reset with mem := [(0, 104), (1, 5)] } 7 .suspended ∧
    visitEnds 1 { State.reset with mem := [(0, 99)] } 7 .halted ∧
    visitEnds 1 State.reset 7 .faulted ∧ visitEnds 0 State.reset 7 .run ∧
    hostEnqueue 7 { State.reset with cfg := tiny, q := [1] } = .refused .fifoFull ∧
    (∃ u, hostEnqueue 7 (running [99]) = .next u ∧ hostRun u = .refused .runWhileRunning) ∧
    0 + 1 ≠ (ringOfTwo State.reset 0).insts.length ∧ 1 + 1 = (ringOfTwo State.reset 1).insts.length :=
  ⟨rfl, ⟨by decide, _, _, rfl, rfl, rfl⟩, ⟨by decide, _, _, rfl, rfl, rfl⟩, ⟨by decide, _, _, rfl, rfl, rfl⟩,
    ⟨by decide, _, _, rfl, rfl, rfl⟩, rfl, ⟨_, rfl, rfl⟩, by decide, by decide⟩

theorem witness_RingVisitTouchesOnlyItsInstance :
    ∃ r, (ringOfTwo { State.reset with mem := [(0, 104), (1, 5)] } 0).visit 1 = .going r ∧ r.signal = 5 ∧ r.turn = 1 :=
  ⟨_, rfl, rfl, rfl⟩

theorem witness_RingSetupConstructsEachInstance : ∃ r, ringSetup Config.default [99] [9, 8] 0 = some r := ⟨_, rfl⟩

/-- An empty schedule, the core's turn and the host's command at the head of one. -/
theorem witness_StepIsTheMoveTheScheduleNames :
    State.reset.schedule = [] ∧ State.reset.nextEvent.1 = .core ∧
    ({ State.reset with schedule := [.core, .host .run] } : State).nextEvent.1 = .core ∧
    (offered .run State.reset).nextEvent.1 = .host .run ∧
    ({ State.reset with schedule := [.core, .host .run] } : State).schedule = .core :: [.host .run] :=
  ⟨rfl, rfl, rfl, rfl, rfl⟩

end Sys2Proof.Tests
end

section
/-!
SUPPORT. What every step keeps: the parameters and, with them, the invariant `State.Inv`.

`exec_cases` forgets which fault an instruction raised, and the invariant bounds `FCAUSE` and `FINFO`. So the invariant
is carried by `Yields`: what a computation answers has a property, and what it raises may stand in the fault record.
-/

namespace Sys2Proof

/-! ## Limits and words of a legal configuration -/

/-- A cell exists exactly when Memory may hold the cells up to it. -/
theorem Limit.allows_succ (l : Limit) (n : Nat) : l.allows (n + 1) = l.exceeds n := by
  cases l <;> rfl

theorem Limit.allows_of_le {l : Limit} {m n : Nat} (hmn : m ≤ n) (h : l.allows n = true) : l.allows m = true := by
  cases l with
  | finite k =>
    have hn : n ≤ k := of_decide_eq_true h
    exact decide_eq_true (hmn.trans hn)
  | inf => rfl

/-- Cells below one that exists exist. -/
theorem Limit.exceeds_of_le {l : Limit} {m n : Nat} (hmn : m ≤ n) (h : l.exceeds n = true) : l.exceeds m = true := by
  rw [← Limit.allows_succ] at h ⊢
  exact Limit.allows_of_le (Nat.succ_le_succ hmn) h

theorem Config.isWord_finite {c : Config} {n : Nat} (hx : c.xlen = .finite n) {v : Int} :
    c.isWord v = true ↔ -((2 ^ (n - 1) : Nat) : Int) ≤ v ∧ v < ((2 ^ (n - 1) : Nat) : Int) := by
  simp [Config.isWord, hx]

theorem Config.isWord_inf {c : Config} (hx : c.xlen = .inf) (v : Int) : c.isWord v = true := by
  simp [Config.isWord, hx]

/-- A finite word has at least 64 bits. -/
theorem Config.sixtyFour_le_xlen {c : Config} (hc : c.wf = true) {n : Nat} (hx : c.xlen = .finite n) : 64 ≤ n := by
  simp only [Config.wf, hx, Bool.and_eq_true, decide_eq_true_eq] at hc
  obtain ⟨⟨⟨⟨hn, -⟩, -⟩, -⟩, -⟩ := hc
  exact hn

/-- With finite words and finite Memory, the addresses up to three past the end are words. -/
theorem Config.memCells_add_le {c : Config} (hc : c.wf = true) {n m : Nat} (hx : c.xlen = .finite n)
    (hm : c.memCells = .finite m) : m + 4 ≤ 2 ^ (n - 1) := by
  simp only [Config.wf, hx, hm, Bool.and_eq_true, decide_eq_true_eq] at hc
  obtain ⟨⟨⟨⟨-, -, hfit⟩, -⟩, -⟩, -⟩ := hc
  exact hfit

/-- Small integers are words: opcode numbers, operand numbers, truth values. -/
theorem Config.isWord_of_small {c : Config} (hc : c.wf = true) {v : Int} (hlo : -100 < v) (hhi : v < 100) :
    c.isWord v = true := by
  cases hx : c.xlen with
  | inf => exact Config.isWord_inf hx v
  | finite n =>
    have hn := Config.sixtyFour_le_xlen hc hx
    have hpow : 2 ^ 63 ≤ 2 ^ (n - 1) := Nat.pow_le_pow_right (by decide) (by omega)
    rw [Config.isWord_finite hx]
    omega

/-- Where Memory ends, an address that a fetch misses at is a word. -/
theorem Config.isWord_pc_add {c : Config} (hc : c.wf = true) {pc n a : Nat} (hpc : c.memCells.allows pc = true)
    (hn : n < 4) (hend : c.memCells.exceeds a = false) : c.isWord ((pc : Int) + n) = true := by
  cases hx : c.xlen with
  | inf => exact Config.isWord_inf hx _
  | finite x =>
    cases hm : c.memCells with
    | inf => simp [hm, Limit.exceeds] at hend
    | finite m =>
      have hfit := Config.memCells_add_le hc hx hm
      have hle : pc ≤ m := by simpa [hm, Limit.allows] using hpc
      rw [Config.isWord_finite hx]
      omega

theorem Config.isWord_freeWord {c : Config} (hc : c.wf = true) (k : Nat) : c.isWord (c.freeWord k) = true := by
  cases hx : c.xlen with
  | inf => exact Config.isWord_inf hx _
  | finite n =>
    have hn := Config.sixtyFour_le_xlen hc hx
    have hpow : 2 ^ n = 2 * 2 ^ (n - 1) := by rw [← Nat.pow_succ']; congr 1; omega
    have hpos : 0 < 2 ^ (n - 1) := by positivity
    have hlo := Int.le_bmod (x := Config.freeInt k) (m := 2 ^ n) (by omega)
    have hhi := Int.bmod_lt (x := Config.freeInt k) (m := 2 ^ n) (by omega)
    simp only [Config.isWord_finite hx, Config.freeWord, hx]
    omega

theorem Config.allows_freePc (c : Config) (k : Nat) : c.memCells.allows (c.freePc k) = true := by
  cases hm : c.memCells with
  | inf => rfl
  | finite m =>
    have hlt := Nat.mod_lt (Config.freeInt k).toNat (Nat.succ_pos m)
    simp only [Config.freePc, hm]
    exact decide_eq_true (Nat.le_of_lt_succ hlt)

/-! ## What the decoder answers -/

/-- A decoded instruction's operands are the words after its instruction word. -/
theorem decode_ok {c : Config} {ws : List Int} {i : Instr} (h : decode c ws = .ok i) :
    ∃ (o : Opcode) (operand : Nat → Operand), i = o.assemble operand ∧ ∀ n, (operand (n + 1)).param = ws[n + 1]? := by
  unfold decode at h
  split at h
  · cases h
  · next w params =>
    split at h
    · cases h
    · split at h
      · cases h
      · next o _ =>
        injection h with h
        exact ⟨o, operandAt w.toNat params, h.symm, fun _ => rfl⟩

/-- Words that decode to no instruction: none at all, or an opcode number of at most two digits. -/
theorem decode_error {c : Config} {ws : List Int} {r : Reject} (h : decode c ws = .error r) :
    (ws = [] ∧ r = .noWord) ∨ ∃ code, r = .unknownOpcode code ∧ -100 < code ∧ code < 100 := by
  unfold decode at h
  split at h
  · injection h with h; exact .inl ⟨rfl, h.symm⟩
  · next w _ =>
    split at h
    · injection h with h
      have hlo := Int.lt_tmod_of_pos w (b := 100) (by decide)
      have hhi := Int.tmod_lt_of_pos w (b := 100) (by decide)
      exact .inr ⟨_, h.symm, hlo, hhi⟩
    · split at h
      · injection h with h
        exact .inr ⟨_, h.symm, by omega, by omega⟩
      · cases h

namespace Machine

/-! ## Which parts of the state no step changes -/

/-- An instruction's effect leaves the parameters, the schedule and the free values alone. -/
theorem Effect.sameEnvironment {i : Instr} {s t : State} (h : Effect s t i) : SameEnvironment s t := by
  cases i with
  | add | mul => obtain ⟨x, y, k, -, -, -, -, rfl⟩ := h; exact ⟨rfl, rfl, rfl, rfl⟩
  | lt | eq => obtain ⟨x, y, k, -, -, -, rfl⟩ := h; exact ⟨rfl, rfl, rfl, rfl⟩
  | inp => obtain ⟨k, v, rest, -, -, rfl⟩ := h; exact ⟨rfl, rfl, rfl, rfl⟩
  | out => obtain ⟨x, -, rfl⟩ := h; exact ⟨rfl, rfl, rfl, rfl⟩
  | arb => obtain ⟨x, -, -, rfl⟩ := h; exact ⟨rfl, rfl, rfl, rfl⟩
  | jt | jf =>
    obtain ⟨x, y, -, -, ⟨-, k, -, rfl⟩ | ⟨-, rfl⟩⟩ := h
    · exact ⟨rfl, rfl, rfl, rfl⟩
    · exact ⟨rfl, rfl, rfl, rfl⟩
  | hlt => cases h; exact ⟨rfl, rfl, rfl, rfl⟩

theorem coreStep_sameEnvironment {s t : State} (h : coreStep s = .next t) : SameEnvironment s t := by
  obtain ⟨-, ⟨-, i, -, hexec⟩ | ⟨-, r, -, rfl⟩ | ⟨-, rfl⟩⟩ := coreStep_cases h
  · obtain ⟨tr, rfl⟩ | heff := exec_cases hexec
    · exact ⟨rfl, rfl, rfl, rfl⟩
    · exact heff.sameEnvironment
  · exact ⟨rfl, rfl, rfl, rfl⟩
  · exact ⟨rfl, rfl, rfl, rfl⟩

/-- An accepted command leaves the parameters alone and `constructed` set. -/
theorem hostCommand_cfg_constructed {c : Command} {s t : State} (h : hostCommand c s = .next t) :
    t.cfg = s.cfg ∧ t.constructed = true := by
  cases c with
  | construct program inputs =>
    obtain ⟨-, -, -, -, rfl⟩ := hostConstruct_next h
    exact ⟨rfl, rfl⟩
  | enqueue v =>
    obtain ⟨hc, -, -, rfl⟩ := hostEnqueue_next h
    exact ⟨rfl, hc⟩
  | run =>
    obtain ⟨hc, ⟨-, rfl⟩ | ⟨-, rfl⟩⟩ := hostRun_next h
    · exact ⟨rfl, hc⟩
    · exact ⟨rfl, hc⟩

/-! ## The step and the schedule -/

theorem nextEvent_nil {s : State} (h : s.schedule = []) : s.nextEvent = (.core, []) := by
  rw [State.nextEvent, h]

theorem nextEvent_cons {s : State} {e : Event} {rest : List Event} (h : s.schedule = e :: rest) :
    s.nextEvent = (e, rest) := by
  rw [State.nextEvent, h]

theorem step_core {s : State} (h : s.nextEvent.1 = .core) :
    step s = coreStep { s with schedule := s.nextEvent.2 } := by
  rw [step, h]; rfl

theorem step_host {s : State} {c : Command} (h : s.nextEvent.1 = .host c) :
    step s = hostCommand c { s with schedule := s.nextEvent.2 } := by
  rw [step, h]; rfl

/-! ## Computations that may fault -/

/-- The fault may stand in the fault record (10_state.md R29): `FCAUSE` is not 0 and `FINFO` is a word. -/
def Trap.Recordable (c : Config) (tr : Trap) : Prop := tr.cause ≠ .noFault ∧ c.isWord tr.info = true

/-- What the computation answers has the property, and a fault it raises may stand in the fault record. A proof about a
chain of computations takes each one's `casesOn` in turn: the fault is passed on, the answer goes to the next. -/
inductive Yields {α : Type} (c : Config) (P : α → Prop) : Except Trap α → Prop
  | ok (x : α) (h : P x) : Yields c P (.ok x)
  | error (tr : Trap) (h : tr.Recordable c) : Yields c P (.error tr)

theorem Yields.imp {α : Type} {c : Config} {P Q : α → Prop} {r : Except Trap α} (h : Yields c P r)
    (hPQ : ∀ x, P x → Q x) : Yields c Q r := by
  cases h with
  | ok x hx => exact .ok x (hPQ x hx)
  | error tr htr => exact .error tr htr

/-- The number of an operand is a word, so a fault that names it may be recorded. -/
theorem recordable_operand {c : Config} (hc : c.wf = true) {n : Nat} (hn : n < 4) {cause : Cause}
    (hcause : cause ≠ .noFault) : Trap.Recordable c { cause := cause, info := n } :=
  ⟨hcause, Config.isWord_of_small hc (v := n) (by omega) (by omega)⟩

theorem chk_yields {s : State} (hc : s.cfg.wf = true) {n : Nat} (hn : n < 4) (v : Int) :
    Yields s.cfg (fun r => s.cfg.isWord r = true) (s.chk n v) := by
  cases hv : s.cfg.isWord v with
  | true => rw [chk_of_isWord hv]; exact .ok _ hv
  | false => rw [chk_of_not_isWord hv]; exact .error _ (recordable_operand hc hn nofun)

theorem relative_yields {s : State} (hc : s.cfg.wf = true) {n : Nat} (hn : n < 4) (p : Int) :
    Yields s.cfg (fun a => s.cfg.isWord a = true) (s.relative n p) :=
  chk_yields hc hn (s.rb + p)

theorem checkAddr_yields {s : State} {a : Int} (ha : s.cfg.isWord a = true) :
    Yields s.cfg (fun k => s.cfg.memCells.exceeds k = true) (s.checkAddr a) := by
  cases h : s.checkAddr a with
  | ok k => obtain ⟨-, -, hk⟩ := checkAddr_ok h; exact .ok _ hk
  | error tr => obtain ⟨-, rfl⟩ := checkAddr_error h; exact .error _ ⟨nofun, ha⟩

theorem memRead_yields {s : State} (hs : s.Inv) {a : Int} (ha : s.cfg.isWord a = true) :
    Yields s.cfg (fun x => s.cfg.isWord x = true) (s.memRead a) := by
  cases h : s.memRead a with
  | ok v => obtain ⟨-, rfl⟩ := memRead_ok h; exact .ok _ (Memory.read_isWord hs.mem_inBounds _)
  | error tr => obtain ⟨-, rfl⟩ := memRead_error h; exact .error _ ⟨nofun, ha⟩

/-! ## Fetched words and operands -/

theorem inMemory_natCast (s : State) (a : Nat) : s.inMemory a = s.cfg.memCells.exceeds a := by
  simp [State.inMemory]

/-- The words fetched are those of the cells that exist. -/
theorem getElem?_wordsFrom (s : State) {a n k : Nat} (hk : k < n) :
    (s.wordsFrom a n)[k]? = if s.cfg.memCells.exceeds (a + k) then some (s.mem.read (a + k)) else none := by
  induction n generalizing a k with
  | zero => omega
  | succ n ih =>
    rw [State.wordsFrom, inMemory_natCast]
    cases ha : s.cfg.memCells.exceeds a with
    | true =>
      cases k with
      | zero => simp [ha]
      | succ k => simpa [Nat.add_right_comm, Nat.add_assoc] using ih (a := a + 1) (Nat.lt_of_succ_lt_succ hk)
    | false =>
      have hak : s.cfg.memCells.exceeds (a + k) = false :=
        Bool.eq_false_iff.mpr fun h => Bool.eq_false_iff.mp ha (Limit.exceeds_of_le (Nat.le_add_right a k) h)
      simp [hak]

theorem getElem?_fetched (s : State) {n : Nat} (hn : n < 4) :
    s.fetched[n]? = if s.cfg.memCells.exceeds (s.pc + n) then some (s.mem.read (s.pc + n)) else none :=
  getElem?_wordsFrom s hn

/-- A parameter word that is there is a word in a cell that exists; where it is missing, its address is a word. -/
theorem param_yields {s : State} (hs : s.Inv) {n : Nat} (hn : n < 4) {o : Operand} (ho : o.param = s.fetched[n]?) :
    Yields s.cfg (fun p => s.cfg.isWord p = true ∧ s.cfg.memCells.exceeds (s.pc + n) = true) (s.param n o) := by
  rw [getElem?_fetched s hn] at ho
  cases hend : s.cfg.memCells.exceeds (s.pc + n) with
  | true =>
    simp only [State.param, ho, hend, if_true]
    exact .ok _ ⟨Memory.read_isWord hs.mem_inBounds _, trivial⟩
  | false =>
    simp only [State.param, ho, hend]
    exact .error _ ⟨nofun, Config.isWord_pc_add hs.cfg_wf hs.pc_inRange hn hend⟩

/-- A source operand is a word, and its parameter's cell exists. -/
theorem srcVal_yields {s : State} (hs : s.Inv) {n : Nat} (hn : n < 4) {o : Operand} (ho : o.param = s.fetched[n]?) :
    Yields s.cfg (fun x => s.cfg.isWord x = true ∧ s.cfg.memCells.exceeds (s.pc + n) = true) (s.srcVal n o) := by
  unfold State.srcVal
  refine (param_yields hs hn ho).casesOn (fun p ⟨hp, hcell⟩ => ?_) .error
  dsimp only
  have read {a : Int} (ha : s.cfg.isWord a = true) := (memRead_yields hs ha).imp fun x hx => And.intro hx hcell
  cases o.mode with
  | position => exact read hp
  | immediate => exact .ok _ ⟨hp, hcell⟩
  | relative => exact (relative_yields hs.cfg_wf hn p).casesOn (fun _ => read) .error
  | reserved => exact .error _ (recordable_operand hs.cfg_wf hn nofun)

/-- A destination operand is a cell that exists, and so is its parameter's. -/
theorem dstAddr_yields {s : State} (hs : s.Inv) {n : Nat} (hn : n < 4) {o : Operand} (ho : o.param = s.fetched[n]?) :
    Yields s.cfg (fun k => s.cfg.memCells.exceeds k = true ∧ s.cfg.memCells.exceeds (s.pc + n) = true)
      (s.dstAddr n o) := by
  unfold State.dstAddr
  refine (param_yields hs hn ho).casesOn (fun p ⟨hp, hcell⟩ => ?_) .error
  dsimp only
  have check {a : Int} (ha : s.cfg.isWord a = true) := (checkAddr_yields ha).imp fun k hk => And.intro hk hcell
  cases o.mode with
  | position => exact check hp
  | immediate => exact .error _ (recordable_operand hs.cfg_wf hn nofun)
  | relative => exact (relative_yields hs.cfg_wf hn p).casesOn (fun _ => check) .error
  | reserved => exact .error _ (recordable_operand hs.cfg_wf hn nofun)

/-! ## The updates of the registers keep the invariant -/

namespace State.Inv

variable {s : State}

theorem setSchedule (hs : s.Inv) (moves : List Event) : State.Inv { s with schedule := moves } :=
  { hs with }

theorem advance (hs : s.Inv) {n : Nat} (hcell : s.cfg.memCells.exceeds (s.pc + n) = true) :
    (s.advance (n + 1)).Inv :=
  { hs with pc_inRange := (Limit.allows_succ _ _).trans hcell }

theorem jumpTo (hs : s.Inv) {a : Nat} (ha : s.cfg.memCells.exceeds a = true) : (s.jumpTo a).Inv :=
  { hs with pc_inRange := Limit.allows_of_le (Nat.le_succ a) ((Limit.allows_succ _ _).trans ha) }

theorem store (hs : s.Inv) {a : Nat} {v : Int} (ha : s.cfg.memCells.exceeds a = true) (hv : s.cfg.isWord v = true) :
    (s.store a v).Inv :=
  { hs with
    mem_wf := Memory.write_wf hs.mem_wf a v
    mem_inBounds := Memory.write_inBounds hs.mem_inBounds ha hv }

/-- The head popped is a word, and what stays in `Q` fits. -/
theorem popQueue (hs : s.Inv) {v : Int} {rest : List Int} (hq : s.q = v :: rest) :
    s.cfg.isWord v = true ∧ (s.setQueue rest).Inv := by
  have hwords := hs.q_words
  have hfits := hs.q_fits
  simp only [hq, List.all_cons, List.length_cons, Bool.and_eq_true] at hwords hfits
  exact ⟨hwords.1, { hs with q_words := hwords.2, q_fits := Limit.allows_of_le (Nat.le_succ _) hfits }⟩

theorem setBase (hs : s.Inv) {v : Int} (hv : s.cfg.isWord v = true) : (s.setBase v).Inv :=
  { hs with rb_word := hv }

/-- Outside `FAULTED` there is no fault on record. -/
theorem fcause_eq (hs : s.Inv) (h : s.runState ≠ .faulted) : s.fcause = .noFault :=
  not_not.mp (mt hs.fcause_iff.mp h)

/-- Outside `SUSPENDED` no output is valid. -/
theorem outValid_eq (hs : s.Inv) (h : s.runState ≠ .suspended) : s.outValid = false :=
  Bool.eq_false_iff.mpr (mt hs.outValid_iff.mp h)

theorem latchOutput (hs : s.Inv) (hrun : s.runState = .run) {v : Int} (hv : s.cfg.isWord v = true) :
    (s.latchOutput v).Inv :=
  { hs with
    outData_word := hv
    outValid_iff := by simp
    fcause_iff := by simp [hs.fcause_eq (by simp [hrun])] }

theorem halt (hs : s.Inv) (hrun : s.runState = .run) : s.halt.Inv :=
  { hs with
    outValid_iff := by simp [hs.outValid_eq (by simp [hrun])]
    fcause_iff := by simp [hs.fcause_eq (by simp [hrun])] }

theorem takeFault (hs : s.Inv) (hstate : s.runState ≠ .suspended) {tr : Trap} (htr : tr.Recordable s.cfg) :
    (s.takeFault tr).Inv := by
  obtain ⟨hcause, hinfo⟩ := htr
  exact { hs with
    fpc_inRange := hs.pc_inRange
    finfo_word := hinfo
    outValid_iff := by simp [hs.outValid_eq hstate]
    fcause_iff := by simpa using hcause }

theorem startRun (hs : s.Inv) (hstate : s.runState ≠ .faulted) : s.startRun.Inv :=
  { hs with
    outData_word := Config.isWord_freeWord hs.cfg_wf _
    outValid_iff := by simp
    fcause_iff := by simp [hs.fcause_eq hstate] }

/-- How an instruction ends: what it answers satisfies the invariant, or its fault may be recorded. -/
theorem conclude (hs : s.Inv) (hrun : s.runState = .run) {r : Except Trap State} (hr : Yields s.cfg State.Inv r)
    {t : State} (ht : s.conclude r = .next t) : t.Inv := by
  obtain rfl | ⟨tr, rfl, rfl⟩ := conclude_cases ht
  · cases hr with | ok _ ht => exact ht
  · cases hr with | error _ htr => exact hs.takeFault (by simp [hrun]) htr

end State.Inv

/-! ## Every instruction keeps the invariant -/

section Instructions

variable {s t : State} (hs : s.Inv) (hrun : s.runState = .run)
include hs hrun

theorem binary_preserves_inv {a b d : Operand} {f : Int → Int → Except Trap Int} (ha : a.param = s.fetched[1]?)
    (hb : b.param = s.fetched[2]?) (hd : d.param = s.fetched[3]?)
    (hf : ∀ x y, Yields s.cfg (fun r => s.cfg.isWord r = true) (f x y)) (h : s.binary a b d f = .next t) : t.Inv := by
  refine hs.conclude hrun ?_ h
  refine (srcVal_yields hs (by decide) ha).casesOn (fun x _ => ?_) .error
  dsimp only
  refine (srcVal_yields hs (by decide) hb).casesOn (fun y _ => ?_) .error
  dsimp only
  refine (dstAddr_yields hs (by decide) hd).casesOn (fun k ⟨hk, hcell⟩ => ?_) .error
  dsimp only
  exact (hf x y).casesOn (fun r hr => .ok _ ((hs.store hk hr).advance hcell)) .error

theorem jumpWhen_preserves_inv {a b : Operand} {p : Int → Bool} (ha : a.param = s.fetched[1]?)
    (hb : b.param = s.fetched[2]?) (h : s.jumpWhen a b p = .next t) : t.Inv := by
  refine hs.conclude hrun ?_ h
  refine (srcVal_yields hs (by decide) ha).casesOn (fun x _ => ?_) .error
  dsimp only
  refine (srcVal_yields hs (by decide) hb).casesOn (fun y ⟨hy, hcell⟩ => ?_) .error
  dsimp only
  split
  · exact (checkAddr_yields hy).casesOn (fun k hk => .ok _ (hs.jumpTo hk)) .error
  · exact .ok _ (hs.advance hcell)

theorem unary_preserves_inv {a : Operand} {f : Int → Except Trap State} (ha : a.param = s.fetched[1]?)
    (hf : ∀ x, s.cfg.isWord x = true → Yields s.cfg (fun u => u.Inv ∧ u.cfg = s.cfg ∧ u.pc = s.pc) (f x))
    (h : s.unary a f = .next t) : t.Inv := by
  refine hs.conclude hrun ?_ h
  refine (srcVal_yields hs (by decide) ha).casesOn (fun x ⟨hx, hcell⟩ => ?_) .error
  dsimp only
  refine (hf x hx).casesOn (fun u ⟨hu, hcfg, hpc⟩ => .ok _ (hu.advance ?_)) .error
  rwa [hcfg, hpc]

theorem execInp_preserves_inv {d : Operand} (hd : d.param = s.fetched[1]?) (h : execInp d s = .next t) : t.Inv := by
  refine hs.conclude hrun ?_ h
  refine (dstAddr_yields hs (by decide) hd).casesOn (fun k ⟨hk, hcell⟩ => ?_) .error
  dsimp only
  split
  · exact .error _ ⟨nofun, isWord_zero _⟩
  · next v rest hq =>
    obtain ⟨hv, hpop⟩ := hs.popQueue hq
    exact .ok _ ((hpop.store hk hv).advance hcell)

theorem execOut_preserves_inv {a : Operand} (ha : a.param = s.fetched[1]?) (h : execOut a s = .next t) : t.Inv :=
  unary_preserves_inv hs hrun ha (fun _ hx => .ok _ ⟨hs.latchOutput hrun hx, rfl, rfl⟩) h

theorem execArb_preserves_inv {a : Operand} (ha : a.param = s.fetched[1]?) (h : execArb a s = .next t) : t.Inv := by
  refine unary_preserves_inv hs hrun ha (fun x _ => ?_) h
  have hsum := chk_yields (s := s) hs.cfg_wf (n := 0) (by decide) (s.rb + x)
  exact hsum.casesOn (fun v hv => .ok _ ⟨hs.setBase hv, rfl, rfl⟩) .error

/-- An instruction whose operands are the words after `pc` keeps the invariant. -/
theorem exec_assemble_preserves_inv {o : Opcode} {operand : Nat → Operand}
    (hoperand : ∀ n, (operand (n + 1)).param = s.fetched[n + 1]?)
    (h : exec (o.assemble operand) s = .next t) : t.Inv := by
  have hchk (v : Int) := chk_yields (s := s) hs.cfg_wf (n := 0) (by decide) v
  have hbool (b : Bool) : s.cfg.isWord (wordOfBool b) = true := by
    cases b with
    | true => exact Config.isWord_of_small hs.cfg_wf (by decide) (by decide)
    | false => exact isWord_zero _
  cases o with
  | add | mul => exact binary_preserves_inv hs hrun (hoperand 0) (hoperand 1) (hoperand 2) (fun _ _ => hchk _) h
  | lt | eq => exact binary_preserves_inv hs hrun (hoperand 0) (hoperand 1) (hoperand 2) (fun _ _ => .ok _ (hbool _)) h
  | jt | jf => exact jumpWhen_preserves_inv hs hrun (hoperand 0) (hoperand 1) h
  | inp => exact execInp_preserves_inv hs hrun (hoperand 0) h
  | out => exact execOut_preserves_inv hs hrun (hoperand 0) h
  | arb => exact execArb_preserves_inv hs hrun (hoperand 0) h
  | hlt => injection h with h; exact h ▸ hs.halt hrun

end Instructions

/-! ## Every step keeps the invariant -/

/-- The fault of a word that does not decode may be recorded. -/
theorem rejectTrap_recordable {s : State} (hs : s.Inv) {r : Reject} (h : decode s.cfg s.fetched = .error r) :
    (s.rejectTrap r).Recordable s.cfg := by
  obtain ⟨hnil, rfl⟩ | ⟨code, rfl, hlo, hhi⟩ := decode_error h
  · have hend : s.cfg.memCells.exceeds s.pc = false := by
      simpa [hnil] using getElem?_fetched s (n := 0) (by decide)
    exact ⟨nofun, Config.isWord_pc_add hs.cfg_wf hs.pc_inRange (n := 0) (by decide) hend⟩
  · exact ⟨nofun, Config.isWord_of_small hs.cfg_wf hlo hhi⟩

theorem coreStep_preserves_inv {s t : State} (hs : s.Inv) (h : coreStep s = .next t) : t.Inv := by
  obtain ⟨-, ⟨hrun, i, hdec, hexec⟩ | ⟨hrun, r, hdec, rfl⟩ | ⟨-, rfl⟩⟩ := coreStep_cases h
  · obtain ⟨o, operand, rfl, hoperand⟩ := decode_ok hdec
    exact exec_assemble_preserves_inv hs hrun hoperand hexec
  · exact hs.takeFault (by simp [hrun]) (rejectTrap_recordable hs hdec)
  · exact hs

theorem hostEnqueue_preserves_inv {s t : State} (hs : s.Inv) {v : Int} (h : hostEnqueue v s = .next t) : t.Inv := by
  obtain ⟨-, hv, hroom, rfl⟩ := hostEnqueue_next h
  have hroom : s.cfg.fifoDepth.exceeds s.q.length = true := by simpa [State.inFull] using hroom
  exact { hs with
    q_words := by simp [hs.q_words, hv]
    q_fits := by simpa [Limit.allows_succ] using hroom }

theorem hostRun_preserves_inv {s t : State} (hs : s.Inv) (h : hostRun s = .next t) : t.Inv := by
  obtain ⟨-, ⟨hstate, rfl⟩ | ⟨hstate, rfl⟩⟩ := hostRun_next h
  · exact hs.startRun (by rcases hstate with h | h <;> simp [h])
  · exact hs.takeFault (by simp [hstate]) ⟨nofun, isWord_zero _⟩

/-- A program that fits is a Memory whose cells exist and hold words. -/
theorem image_inBounds {c : Config} {program : List Int} (hfits : c.memCells.allows (program.length + c.margin) = true)
    (hwords : allWords c program = true) : (Memory.image 0 program).inBounds c = true := by
  refine List.all_eq_true.mpr fun e he => ?_
  obtain ⟨-, hlt, hmem⟩ := Memory.mem_image he
  have hcell : c.memCells.exceeds e.1 = true := by
    rw [← Limit.allows_succ]
    exact Limit.allows_of_le (by omega) hfits
  simp [hcell, List.all_eq_true.mp hwords e.2 hmem]

/-- `CONSTRUCT` establishes the invariant whatever the state before it. -/
theorem hostConstruct_establishes_inv {s t : State} (hc : s.cfg.wf = true) {program inputs : List Int}
    (h : hostConstruct program inputs s = .next t) : t.Inv := by
  obtain ⟨hmem, hfifo, hprogram, hinputs, rfl⟩ := hostConstruct_next h
  exact {
    cfg_wf := hc
    constructed := rfl
    mem_wf := Memory.image_wf 0 program
    mem_inBounds := image_inBounds hmem hprogram
    pc_inRange := Limit.allows_of_le (Nat.zero_le _) hmem
    rb_word := isWord_zero _
    q_words := hinputs
    q_fits := hfifo
    outData_word := Config.isWord_freeWord hc _
    fpc_inRange := Config.allows_freePc _ _
    finfo_word := Config.isWord_freeWord hc _
    outValid_iff := by simp
    fcause_iff := by simp }

theorem hostCommand_preserves_inv {c : Command} {s t : State} (hs : s.Inv) (h : hostCommand c s = .next t) : t.Inv := by
  cases c with
  | construct program inputs => exact hostConstruct_establishes_inv hs.cfg_wf h
  | enqueue v => exact hostEnqueue_preserves_inv hs h
  | run => exact hostRun_preserves_inv hs h

theorem step_preserves_inv {s t : State} (hs : s.Inv) (h : step s = .next t) : t.Inv := by
  cases hev : s.nextEvent.1 with
  | core => exact coreStep_preserves_inv (hs.setSchedule _) (step_core hev ▸ h)
  | host c => exact hostCommand_preserves_inv (hs.setSchedule _) (step_host hev ▸ h)

/-- A `CONSTRUCT` that fits is not refused. -/
theorem hostConstruct_of_fits {s : State} {program inputs : List Int} (h : s.fits program inputs) :
    ∃ t, hostConstruct program inputs s = .next t := by
  obtain ⟨hmem, hfifo, hprogram, hinputs⟩ := h
  have hprogram : allWords s.cfg program = true := List.all_eq_true.mpr hprogram
  have hinputs : allWords s.cfg inputs = true := List.all_eq_true.mpr hinputs
  simp [hostConstruct, hmem, hfifo, hprogram, hinputs]

theorem hostConstruct_inv_of_fits {s : State} (hc : s.cfg.wf = true) {program inputs : List Int}
    (h : s.fits program inputs) : ∃ t, hostConstruct program inputs s = .next t ∧ t.Inv := by
  obtain ⟨t, ht⟩ := hostConstruct_of_fits h
  exact ⟨t, ht, hostConstruct_establishes_inv hc ht⟩

/-- Settles O43: the preservation lemmas for the core's turn and for each command, put together. -/
theorem stepKeepsTheInvariant : Obligations.StepKeepsTheInvariant := by
  unfold Obligations.StepKeepsTheInvariant
  refine ⟨fun s t => step_preserves_inv, fun s program inputs hc hfits hev => ?_⟩
  rw [step_host hev]
  exact hostConstruct_inv_of_fits (s := { s with schedule := s.nextEvent.2 }) hc hfits

/-- Settles O51: from what a turn of the core and a command leave alone. -/
theorem parametersNeverChange : Obligations.ParametersNeverChange := by
  unfold Obligations.ParametersNeverChange
  intro s t h
  cases hev : s.nextEvent.1 with
  | core =>
    rw [step_core hev] at h
    obtain ⟨hcfg, hconstructed, -, -⟩ := coreStep_sameEnvironment h
    exact ⟨hcfg, hconstructed.trans⟩
  | host c =>
    rw [step_host hev] at h
    obtain ⟨hcfg, hconstructed⟩ := hostCommand_cfg_constructed h
    exact ⟨hcfg, fun _ => hconstructed⟩

/-- Settles O60: the schedule's first move is taken off it and performed. -/
theorem stepIsTheMoveTheScheduleNames : Obligations.StepIsTheMoveTheScheduleNames := by
  unfold Obligations.StepIsTheMoveTheScheduleNames
  exact ⟨fun _ => nextEvent_nil, fun _ _ _ => nextEvent_cons, fun _ => step_core, fun _ _ => step_host⟩

end Machine
end Sys2Proof
end

section
/-!
SUPPORT. The registers: what a turn of the core and a command change of each of them, the transitions
of `STATE`, and which registers the program cannot see (10_state.md).

A turn of the core is taken apart once, in `coreStep_frame`; the statements about single registers read it off.
-/

namespace Sys2Proof.Machine

/-! ## What a turn of the core changes -/

/-- The core is in `RUN` and the instruction at `pc` is `i`. -/
def State.Executes (s : State) (i : Instr) : Prop := s.runState = .run ∧ decode s.cfg s.fetched = .ok i

/-- The instructions that write a cell (20_memory.md R63). -/
def WritesMemory (i : Instr) : Prop :=
  (∃ a b d, i = .add a b d) ∨ (∃ a b d, i = .mul a b d) ∨ (∃ a b d, i = .lt a b d) ∨ (∃ a b d, i = .eq a b d) ∨
    (∃ d, i = .inp d)

/-- Which registers may differ after a turn of the core that leads from `s` to `t`, and by which instruction. -/
structure CoreFrame (s t : State) : Prop where
  mem : t.mem = s.mem ∨ ∃ i, s.Executes i ∧ WritesMemory i
  rb : t.rb = s.rb ∨ ∃ a, s.Executes (.arb a)
  q : t.q = s.q ∨ ∃ v d, s.q = v :: t.q ∧ s.Executes (.inp d) ∧ t.runState = .run
  output : (t.outValid = s.outValid ∧ t.outData = s.outData) ∨ ∃ a, s.Executes (.out a)

theorem CoreFrame.refl (s : State) : CoreFrame s s :=
  ⟨.inl rfl, .inl rfl, .inl rfl, .inl ⟨rfl, rfl⟩⟩

theorem CoreFrame.takeFault (s : State) (tr : Trap) : CoreFrame s (s.takeFault tr) :=
  ⟨.inl rfl, .inl rfl, .inl rfl, .inl ⟨rfl, rfl⟩⟩

theorem Effect.coreFrame {s t : State} {i : Instr} (hi : s.Executes i) (h : Effect s t i) : CoreFrame s t := by
  cases i with
  | add | mul =>
    obtain ⟨x, y, k, -, -, -, -, rfl⟩ := h
    exact ⟨.inr ⟨_, hi, by simp [WritesMemory]⟩, .inl rfl, .inl rfl, .inl ⟨rfl, rfl⟩⟩
  | lt | eq =>
    obtain ⟨x, y, k, -, -, -, rfl⟩ := h
    exact ⟨.inr ⟨_, hi, by simp [WritesMemory]⟩, .inl rfl, .inl rfl, .inl ⟨rfl, rfl⟩⟩
  | inp d =>
    obtain ⟨k, v, rest, -, hq, rfl⟩ := h
    exact ⟨.inr ⟨_, hi, by simp [WritesMemory]⟩, .inl rfl, .inr ⟨v, d, hq, hi, hi.1⟩, .inl ⟨rfl, rfl⟩⟩
  | out a =>
    obtain ⟨x, -, rfl⟩ := h
    exact ⟨.inl rfl, .inl rfl, .inl rfl, .inr ⟨a, hi⟩⟩
  | arb a =>
    obtain ⟨x, -, -, rfl⟩ := h
    exact ⟨.inl rfl, .inr ⟨a, hi⟩, .inl rfl, .inl ⟨rfl, rfl⟩⟩
  | jt | jf =>
    obtain ⟨x, y, -, -, ⟨-, k, -, rfl⟩ | ⟨-, rfl⟩⟩ := h
    · exact ⟨.inl rfl, .inl rfl, .inl rfl, .inl ⟨rfl, rfl⟩⟩
    · exact ⟨.inl rfl, .inl rfl, .inl rfl, .inl ⟨rfl, rfl⟩⟩
  | hlt =>
    cases h
    exact ⟨.inl rfl, .inl rfl, .inl rfl, .inl ⟨rfl, rfl⟩⟩

theorem coreStep_frame {s t : State} (h : coreStep s = .next t) : CoreFrame s t := by
  obtain ⟨-, ⟨hrun, i, hdec, hexec⟩ | ⟨-, r, -, rfl⟩ | ⟨-, rfl⟩⟩ := coreStep_cases h
  · obtain ⟨tr, rfl⟩ | heff := exec_cases hexec
    · exact .takeFault s tr
    · exact heff.coreFrame ⟨hrun, hdec⟩
  · exact .takeFault s _
  · exact .refl _

/-! ## The transitions of `STATE` -/

/-- An instruction that completes leaves `STATE` as the table says (10_state.md R27). -/
theorem Effect.runState_eq {s t : State} {i : Instr} (hrun : s.runState = .run) (h : Effect s t i) :
    t.runState = stateAfter i := by
  cases i with
  | add | mul => obtain ⟨x, y, k, -, -, -, -, rfl⟩ := h; exact hrun
  | lt | eq => obtain ⟨x, y, k, -, -, -, rfl⟩ := h; exact hrun
  | inp => obtain ⟨k, v, rest, -, -, rfl⟩ := h; exact hrun
  | out => obtain ⟨x, -, rfl⟩ := h; rfl
  | arb => obtain ⟨x, -, -, rfl⟩ := h; exact hrun
  | jt | jf =>
    obtain ⟨x, y, -, -, ⟨-, k, -, rfl⟩ | ⟨-, rfl⟩⟩ := h
    · exact hrun
    · exact hrun
  | hlt => cases h; rfl

theorem stateAfter_ne_faulted (i : Instr) : stateAfter i ≠ .faulted := by
  cases i <;> exact nofun

theorem coreStep_runState_of_run {s t : State} (h : coreStep s = .next t) (hrun : s.runState = .run) :
    t.runState = .faulted ∨ ∃ i, decode s.cfg s.fetched = .ok i ∧ t.runState = stateAfter i := by
  obtain ⟨-, ⟨-, i, hdec, hexec⟩ | ⟨-, r, -, rfl⟩ | ⟨hidle, -⟩⟩ := coreStep_cases h
  · obtain ⟨tr, rfl⟩ | heff := exec_cases hexec
    · exact .inl rfl
    · exact .inr ⟨i, hdec, heff.runState_eq hrun⟩
  · exact .inl rfl
  · exact absurd hrun hidle

theorem coreStep_runState_of_not_run {s t : State} (h : coreStep s = .next t) (hidle : s.runState ≠ .run) :
    t.runState = s.runState := by
  obtain ⟨-, ⟨hrun, -⟩ | ⟨hrun, -⟩ | ⟨-, rfl⟩⟩ := coreStep_cases h
  · exact absurd hrun hidle
  · exact absurd hrun hidle
  · rfl

theorem hostCommand_transition {c : Command} {s t : State} (h : hostCommand c s = .next t) :
    transitionByCommand s.runState c t.runState = true := by
  cases c with
  | construct program inputs =>
    obtain ⟨-, -, -, -, rfl⟩ := hostConstruct_next h
    simp [transitionByCommand]
  | enqueue v =>
    obtain ⟨-, -, -, rfl⟩ := hostEnqueue_next h
    simp [transitionByCommand]
  | run =>
    obtain ⟨-, ⟨hstate | hstate, rfl⟩ | ⟨hstate, rfl⟩⟩ := hostRun_next h
    all_goals simp [transitionByCommand, hstate]

/-- An offered `RUN` moves `STATE` by the table, whether or not it is refused. -/
theorem offer_run_transition {s : State} (hc : s.constructed = true) :
    transitionByCommand s.runState .run (s.offer .run).runState = true := by
  cases hrun : hostCommand .run s with
  | next t => simpa [State.offer, hrun] using hostCommand_transition hrun
  | fault f => cases hstate : s.runState <;> simp [hostCommand, hostRun, hc, hstate] at hrun
  | refused r =>
    cases hstate : s.runState
    case run | faulted => simp [State.offer, hrun, hstate, transitionByCommand]
    all_goals simp [hostCommand, hostRun, hc, hstate] at hrun

/-- Settles O42: a turn of the core in `RUN` and outside it, and each command, move `STATE` by the table. -/
theorem stateTransitionsAreTheTable : Obligations.StateTransitionsAreTheTable := by
  unfold Obligations.StateTransitionsAreTheTable
  refine ⟨fun s t _ h => ?_, fun s => offer_run_transition⟩
  cases hev : s.nextEvent.1 with
  | core =>
    rw [step_core hev] at h
    have hrun := coreStep_runState_of_run h
    have hidle := coreStep_runState_of_not_run h
    exact ⟨hrun, hidle⟩
  | host c =>
    rw [step_host hev] at h
    have htable := hostCommand_transition h
    exact htable

/-! ## Single registers -/

/-- A command other than `CONSTRUCT` keeps Memory and the base. -/
theorem hostCommand_construct_or_keeps {c : Command} {s t : State} (h : hostCommand c s = .next t) :
    (∃ program inputs, c = .construct program inputs) ∨ (t.mem = s.mem ∧ t.rb = s.rb) := by
  cases c with
  | construct program inputs => exact .inl ⟨program, inputs, rfl⟩
  | enqueue v =>
    obtain ⟨-, -, -, rfl⟩ := hostEnqueue_next h
    exact .inr ⟨rfl, rfl⟩
  | run =>
    obtain ⟨-, ⟨-, rfl⟩ | ⟨-, rfl⟩⟩ := hostRun_next h
    · exact .inr ⟨rfl, rfl⟩
    · exact .inr ⟨rfl, rfl⟩

/-- Settles O41: the core's turn changes `rb` by ARB, a command by CONSTRUCT. -/
theorem onlyAdjustBaseWritesTheBase : Obligations.OnlyAdjustBaseWritesTheBase := by
  unfold Obligations.OnlyAdjustBaseWritesTheBase
  intro s t h hne
  cases hev : s.nextEvent.1 with
  | core =>
    rw [step_core hev] at h
    obtain ⟨a, hrun, hdec⟩ := (coreStep_frame h).rb.resolve_left hne
    exact .inl ⟨rfl, hrun, a, hdec⟩
  | host c =>
    rw [step_host hev] at h
    obtain ⟨program, inputs, rfl⟩ | ⟨-, hrb⟩ := hostCommand_construct_or_keeps h
    · exact .inr ⟨program, inputs, rfl⟩
    · exact absurd hrb hne

/-- Settles O49: a cell that reads otherwise is another Memory, which a storing instruction or CONSTRUCT made. -/
theorem memoryChangesOnlyByStoresAndConstruct : Obligations.MemoryChangesOnlyByStoresAndConstruct := by
  unfold Obligations.MemoryChangesOnlyByStoresAndConstruct
  intro s t x h hread
  have hne : t.mem ≠ s.mem := fun hmem => hread (by rw [hmem])
  cases hev : s.nextEvent.1 with
  | core =>
    rw [step_core hev] at h
    obtain ⟨i, ⟨hrun, hdec⟩, hwrites⟩ := (coreStep_frame h).mem.resolve_left hne
    exact .inl ⟨rfl, hrun, i, hdec, hwrites⟩
  | host c =>
    rw [step_host hev] at h
    obtain ⟨program, inputs, rfl⟩ | ⟨hmem, -⟩ := hostCommand_construct_or_keeps h
    · exact .inr ⟨program, inputs, rfl⟩
    · exact absurd hmem hne

/-- Settles O48: the core's turn changes the output register by OUT, and of the commands ENQUEUE keeps it. -/
theorem outputRegisterChangesOnlyByOutRunConstruct : Obligations.OutputRegisterChangesOnlyByOutRunConstruct := by
  unfold Obligations.OutputRegisterChangesOnlyByOutRunConstruct
  intro s t h hchanged
  have hne : ¬ (t.outValid = s.outValid ∧ t.outData = s.outData) := by tauto
  cases hev : s.nextEvent.1 with
  | core =>
    rw [step_core hev] at h
    obtain ⟨a, hrun, hdec⟩ := (coreStep_frame h).output.resolve_left hne
    exact .inl ⟨rfl, hrun, a, hdec⟩
  | host c =>
    rw [step_host hev] at h
    cases c with
    | construct program inputs => exact .inr (.inr ⟨program, inputs, rfl⟩)
    | enqueue v =>
      obtain ⟨-, -, -, rfl⟩ := hostEnqueue_next h
      exact absurd ⟨rfl, rfl⟩ hne
    | run => exact .inr (.inl rfl)

/-- There is room for one more word in a FIFO that is not full. -/
theorem allows_length_succ_of_not_inFull {s : State} (h : s.inFull = false) :
    s.cfg.fifoDepth.allows (s.q.length + 1) = true := by
  simpa [Limit.allows_succ, State.inFull] using h

/-- Settles O47: a pop shortens `Q`, a push needs room, and a CONSTRUCT needs inputs that fit. -/
theorem queueIsFirstInFirstOut : Obligations.QueueIsFirstInFirstOut := by
  unfold Obligations.QueueIsFirstInFirstOut
  intro s t h
  cases hev : s.nextEvent.1 with
  | core =>
    rw [step_core hev] at h
    obtain ⟨hcfg, -⟩ := coreStep_sameEnvironment h
    rw [hcfg]
    obtain hq | ⟨v, d, hq, ⟨hrun, hdec⟩, ht⟩ := (coreStep_frame h).q
    · exact ⟨.inl hq, fun hfits => hq ▸ hfits⟩
    · have hle : t.q.length ≤ s.q.length := by rw [hq]; exact Nat.le_succ _
      exact ⟨.inr ⟨v, d, hq, hrun, hdec, ht⟩, Limit.allows_of_le hle⟩
  | host c =>
    rw [step_host hev] at h
    cases c with
    | construct program inputs =>
      obtain ⟨-, hfits, -, -, rfl⟩ := hostConstruct_next h
      exact ⟨rfl, fun _ => hfits⟩
    | enqueue v =>
      obtain ⟨-, -, hroom, rfl⟩ := hostEnqueue_next h
      exact ⟨rfl, fun _ => by simpa using allows_length_succ_of_not_inFull hroom⟩
    | run =>
      obtain ⟨-, ⟨-, rfl⟩ | ⟨-, rfl⟩⟩ := hostRun_next h
      · exact ⟨rfl, id⟩
      · exact ⟨rfl, id⟩

/-! ## The program counter -/

theorem exceeds_of_fetched {s : State} {n : Nat} (hn : n < 4) {p : Int} (h : s.fetched[n]? = some p) :
    s.cfg.memCells.exceeds (s.pc + n) = true := by
  rw [getElem?_fetched s hn] at h
  split at h
  · assumption
  · cases h

/-- An instruction is decoded only from a cell that exists. -/
theorem exceeds_pc_of_decode {s : State} {i : Instr} (h : decode s.cfg s.fetched = .ok i) :
    s.cfg.memCells.exceeds s.pc = true := by
  cases hwords : s.fetched with
  | nil => rw [hwords] at h; cases h
  | cons w ws => exact exceeds_of_fetched (n := 0) (by decide) (by rw [hwords]; rfl)

theorem param_of_srcVal_ok {s : State} {n : Nat} {o : Operand} {x : Int} (h : s.srcVal n o = .ok x) :
    ∃ p, o.param = some p := by
  cases hp : o.param with
  | none => simp [State.srcVal, State.param, hp] at h
  | some p => exact ⟨p, rfl⟩

theorem param_of_dstAddr_ok {s : State} {n : Nat} {o : Operand} {k : Nat} (h : s.dstAddr n o = .ok k) :
    ∃ p, o.param = some p := by
  cases hp : o.param with
  | none => simp [State.dstAddr, State.param, hp] at h
  | some p => exact ⟨p, rfl⟩

/-- `pc` may pass the last operand's cell, because the parameter word was fetched from it. -/
theorem allows_pc_past_operand {s : State} {n : Nat} (hn : n < 4) {o : Operand} (ho : o.param = s.fetched[n]?)
    (h : ∃ p, o.param = some p) : s.cfg.memCells.allows (s.pc + n + 1) = true := by
  obtain ⟨p, hp⟩ := h
  exact (Limit.allows_succ _ _).trans (exceeds_of_fetched hn (ho ▸ hp))

theorem allows_of_exceeds {l : Limit} {n : Nat} (h : l.exceeds n = true) : l.allows n = true :=
  Limit.allows_of_le (Nat.le_succ n) ((Limit.allows_succ l n).trans h)

/-- An instruction that completes leaves `pc` within `0 .. MEM_CELLS` (10_state.md R22). -/
theorem Effect.pc_inRange {s t : State} {i : Instr} (hdec : decode s.cfg s.fetched = .ok i) (h : Effect s t i) :
    s.cfg.memCells.allows t.pc = true := by
  have hpc := exceeds_pc_of_decode hdec
  obtain ⟨o, operand, rfl, hoperand⟩ := decode_ok hdec
  cases o with
  | add | mul =>
    obtain ⟨x, y, k, -, -, hd, -, rfl⟩ := h
    exact allows_pc_past_operand (by decide) (hoperand 2) (param_of_dstAddr_ok hd)
  | lt | eq =>
    obtain ⟨x, y, k, -, -, hd, rfl⟩ := h
    exact allows_pc_past_operand (by decide) (hoperand 2) (param_of_dstAddr_ok hd)
  | inp =>
    obtain ⟨k, v, rest, hd, -, rfl⟩ := h
    exact allows_pc_past_operand (by decide) (hoperand 0) (param_of_dstAddr_ok hd)
  | out =>
    obtain ⟨x, ha, rfl⟩ := h
    exact allows_pc_past_operand (by decide) (hoperand 0) (param_of_srcVal_ok ha)
  | arb =>
    obtain ⟨x, ha, -, rfl⟩ := h
    exact allows_pc_past_operand (by decide) (hoperand 0) (param_of_srcVal_ok ha)
  | jt | jf =>
    obtain ⟨x, y, -, hb, ⟨-, k, hk, rfl⟩ | ⟨-, rfl⟩⟩ := h
    · obtain ⟨-, -, hcell⟩ := checkAddr_ok hk
      exact allows_of_exceeds hcell
    · exact allows_pc_past_operand (by decide) (hoperand 1) (param_of_srcVal_ok hb)
  | hlt =>
    cases h
    exact allows_of_exceeds hpc

/-- Where a jump leaves `pc`, `taken` its condition and `fallsThrough` the opposite one. -/
theorem pc_after_jump {s t : State} {y : Int} {taken fallsThrough : Prop} (hopposite : taken → ¬ fallsThrough)
    (h : (taken ∧ ∃ k, s.checkAddr y = .ok k ∧ t = s.jumpTo k) ∨ (fallsThrough ∧ t = s.advance 3)) :
    (taken → (t.pc : Int) = y) ∧ (fallsThrough → t.pc = s.pc + 3) := by
  obtain ⟨htaken, k, hk, rfl⟩ | ⟨hfalls, rfl⟩ := h
  · obtain ⟨rfl, hnonneg, -⟩ := checkAddr_ok hk
    exact ⟨fun _ => Int.toNat_of_nonneg hnonneg, fun hfalls => absurd hfalls (hopposite htaken)⟩
  · exact ⟨fun htaken => absurd hfalls (hopposite htaken), fun _ => rfl⟩

/-- Settles O40: a fault keeps `pc`, and an effect moves it to a cell that exists or just past one. -/
theorem pcAfterEachInstruction : Obligations.PcAfterEachInstruction := by
  unfold Obligations.PcAfterEachInstruction
  intro s t i hrun hdec hexec
  obtain ⟨tr, rfl⟩ | heff := exec_cases hexec
  · exact ⟨allows_of_exceeds (exceeds_pc_of_decode hdec), fun _ => rfl, fun hne => absurd rfl hne⟩
  · have hstate : t.runState ≠ .faulted := by rw [heff.runState_eq hrun]; exact stateAfter_ne_faulted i
    refine ⟨heff.pc_inRange hdec, fun hfault => absurd hfault hstate, fun _ => ?_⟩
    cases i with
    | add | mul => obtain ⟨x, y, k, -, -, -, -, rfl⟩ := heff; rfl
    | lt | eq => obtain ⟨x, y, k, -, -, -, rfl⟩ := heff; rfl
    | inp => obtain ⟨k, v, rest, -, -, rfl⟩ := heff; rfl
    | out => obtain ⟨x, -, rfl⟩ := heff; rfl
    | arb => obtain ⟨x, -, -, rfl⟩ := heff; rfl
    | jt =>
      obtain ⟨x, y, hx, hy, hjump⟩ := heff
      exact ⟨x, y, hx, hy, pc_after_jump (fun hne => hne) hjump⟩
    | jf =>
      obtain ⟨x, y, hx, hy, hjump⟩ := heff
      exact ⟨x, y, hx, hy, pc_after_jump (fun heq hne => hne heq) hjump⟩
    | hlt => cases heff; rfl

/-! ## What the program cannot see -/

/-- The state with everything blanked that no instruction reads: the output register, the fault record, the schedule
and the count of free values. -/
def State.visible (s : State) : State :=
  { s with outValid := false, outData := 0, fcause := .noFault, fpc := 0, finfo := 0, schedule := [], freeIdx := 0 }

theorem eq_of_visible_eq {u t : State} (h : u.visible = t.visible) :
    u.mem = t.mem ∧ u.pc = t.pc ∧ u.rb = t.rb ∧ u.q = t.q ∧ u.runState = t.runState := by
  simp only [State.visible, State.mk.injEq] at h
  tauto

/-- A step's outcome as the program sees it. -/
def Outcome.visible : Outcome → Outcome
  | .next t => .next t.visible
  | .fault f => .fault f
  | .refused r => .refused r

theorem Outcome.visible_eq_next {o : Outcome} {v : State} (h : Outcome.visible o = .next v) :
    ∃ u, o = .next u ∧ u.visible = v := by
  cases o with
  | next u => injection h with h; exact ⟨u, rfl, h⟩
  | fault f => cases h
  | refused r => cases h

section

variable (s : State)

@[simp] theorem State.visible_srcVal (n : Nat) (o : Operand) : s.visible.srcVal n o = s.srcVal n o := rfl
@[simp] theorem State.visible_dstAddr (n : Nat) (o : Operand) : s.visible.dstAddr n o = s.dstAddr n o := rfl
@[simp] theorem State.visible_checkAddr (a : Int) : s.visible.checkAddr a = s.checkAddr a := rfl
@[simp] theorem State.visible_chk (info v : Int) : s.visible.chk info v = s.chk info v := rfl
@[simp] theorem State.visible_rb : s.visible.rb = s.rb := rfl
@[simp] theorem State.visible_q : s.visible.q = s.q := rfl
@[simp] theorem State.visible_runState : s.visible.runState = s.runState := rfl
@[simp] theorem State.visible_constructed : s.visible.constructed = s.constructed := rfl
@[simp] theorem State.visible_decode : decode s.visible.cfg s.visible.fetched = decode s.cfg s.fetched := rfl

/-- What an instruction answers, seen by the program, is settled by its result as the program sees it. -/
theorem visible_conclude {r r' : Except Trap State} (h : r.map State.visible = r'.map State.visible) :
    Outcome.visible (s.visible.conclude r) = Outcome.visible (s.conclude r') := by
  cases r with
  | ok t =>
    cases r' with
    | ok t' => injection h with h; exact congrArg Host.Outcome.next h
    | error tr' => cases h
  | error tr =>
    cases r' with
    | ok t' => cases h
    | error tr' => cases h; rfl

theorem visible_binary (a b d : Operand) (f : Int → Int → Except Trap Int) :
    Outcome.visible (s.visible.binary a b d f) = Outcome.visible (s.binary a b d f) := by
  refine visible_conclude s ?_
  simp only [State.visible_srcVal, State.visible_dstAddr]
  cases s.srcVal 1 a with
  | error tr => rfl
  | ok x =>
    cases s.srcVal 2 b with
    | error tr => rfl
    | ok y =>
      cases s.dstAddr 3 d with
      | error tr => rfl
      | ok k => dsimp only; cases f x y <;> rfl

theorem visible_jumpWhen (a b : Operand) (taken : Int → Bool) :
    Outcome.visible (s.visible.jumpWhen a b taken) = Outcome.visible (s.jumpWhen a b taken) := by
  refine visible_conclude s ?_
  simp only [State.visible_srcVal, State.visible_checkAddr]
  cases s.srcVal 1 a with
  | error tr => rfl
  | ok x =>
    cases s.srcVal 2 b with
    | error tr => rfl
    | ok y =>
      dsimp only
      cases taken x with
      | false => rfl
      | true => cases s.checkAddr y <;> rfl

theorem visible_execInp (d : Operand) :
    Outcome.visible (execInp d s.visible) = Outcome.visible (execInp d s) := by
  refine visible_conclude s ?_
  simp only [State.visible_dstAddr, State.visible_q]
  cases s.dstAddr 1 d with
  | error tr => rfl
  | ok k => dsimp only; cases s.q <;> rfl

theorem visible_execOut (a : Operand) :
    Outcome.visible (execOut a s.visible) = Outcome.visible (execOut a s) := by
  refine visible_conclude s ?_
  simp only [State.visible_srcVal]
  cases s.srcVal 1 a <;> rfl

theorem visible_execArb (a : Operand) :
    Outcome.visible (execArb a s.visible) = Outcome.visible (execArb a s) := by
  refine visible_conclude s ?_
  simp only [State.visible_srcVal]
  cases s.srcVal 1 a with
  | error tr => rfl
  | ok x =>
    dsimp only [State.visible_rb, State.visible_chk]
    cases s.chk 0 (s.rb + x) <;> rfl

theorem visible_exec (i : Instr) : Outcome.visible (exec i s.visible) = Outcome.visible (exec i s) := by
  cases i with
  | add | mul => exact visible_binary s _ _ _ _
  | lt => exact visible_binary s _ _ _ fun x y => .ok (wordOfBool (decide (x < y)))
  | eq => exact visible_binary s _ _ _ fun x y => .ok (wordOfBool (decide (x = y)))
  | jt | jf => exact visible_jumpWhen s _ _ _
  | inp => exact visible_execInp s _
  | out => exact visible_execOut s _
  | arb => exact visible_execArb s _
  | hlt => rfl

theorem visible_runInstruction :
    Outcome.visible (runInstruction s.visible) = Outcome.visible (runInstruction s) := by
  unfold runInstruction
  rw [State.visible_decode]
  cases decode s.cfg s.fetched with
  | error r => cases r <;> rfl
  | ok i => exact visible_exec s i

/-- The core's turn takes what the program sees to what the program sees. -/
theorem visible_coreStep : Outcome.visible (coreStep s.visible) = Outcome.visible (coreStep s) := by
  unfold coreStep
  rw [State.visible_constructed, State.visible_runState]
  cases s.constructed with
  | false => rfl
  | true =>
    cases s.runState with
    | run => exact visible_runInstruction s
    | ready | suspended | halted | faulted => rfl

end

/-- Settles O52: the two states look alike to the program, and so do the states after the core's turn. -/
theorem statusRegistersAreInvisibleToTheProgram : Obligations.StatusRegistersAreInvisibleToTheProgram := by
  unfold Obligations.StatusRegistersAreInvisibleToTheProgram
  intro s t ov od fc fp fi sch n h
  have hstep := (visible_coreStep { s with
    outValid := ov, outData := od, fcause := fc, fpc := fp, finfo := fi, schedule := sch, freeIdx := n }).symm.trans
      (visible_coreStep s)
  rw [h] at hstep
  obtain ⟨u, hu, halike⟩ := Outcome.visible_eq_next hstep
  exact ⟨u, hu, eq_of_visible_eq halike⟩

/-! ## Memory in canonical form -/

/-- The tail of a canonical Memory reads as the whole does, but 0 in the first listed cell. -/
theorem Memory.read_tail {k : Nat} {v : Int} {m : Memory} (h : Memory.wf ((k, v) :: m) = true) (a : Nat) :
    Memory.read m a = if a = k then 0 else Memory.read ((k, v) :: m) a := by
  obtain ⟨-, hlt, -⟩ := Memory.wf_cons.mp h
  split
  · next hak => exact hak ▸ Memory.read_of_below hlt
  · next hak => simp [Memory.read, hak]

/-- A cell that does not hold 0 is not below the first listed one. -/
theorem Memory.first_le_of_read_ne_zero {k a : Nat} {v : Int} {m : Memory} (h : Memory.wf ((k, v) :: m) = true)
    (ha : Memory.read ((k, v) :: m) a ≠ 0) : k ≤ a := by
  by_contra hlt
  obtain ⟨-, hrest, -⟩ := Memory.wf_cons.mp h
  refine ha (Memory.read_of_below fun e he => ?_)
  rcases List.mem_cons.mp he with rfl | he
  · exact Nat.lt_of_not_le hlt
  · exact (Nat.lt_of_not_le hlt).trans (hrest e he)

theorem Memory.read_first (k : Nat) (v : Int) (m : Memory) : Memory.read ((k, v) :: m) k = v := if_pos rfl

theorem Memory.eq_of_read_eq {m m' : Memory} (hm : m.wf = true) (hm' : m'.wf = true)
    (hread : ∀ a, m.read a = m'.read a) : m = m' := by
  induction m generalizing m' with
  | nil =>
    cases m' with
    | nil => rfl
    | cons e' m' =>
      obtain ⟨k', v'⟩ := e'
      obtain ⟨hv', -⟩ := Memory.wf_cons.mp hm'
      exact absurd ((hread k').trans (Memory.read_first k' v' m')).symm hv'
  | cons e m ih =>
    obtain ⟨k, v⟩ := e
    obtain ⟨hv, -, htail⟩ := Memory.wf_cons.mp hm
    have hk := Memory.read_first k v m
    cases m' with
    | nil => exact absurd (hk.symm.trans (hread k)) hv
    | cons e' m' =>
      obtain ⟨k', v'⟩ := e'
      obtain ⟨hv', -, htail'⟩ := Memory.wf_cons.mp hm'
      have hk' := Memory.read_first k' v' m'
      have hle' : k' ≤ k := Memory.first_le_of_read_ne_zero hm' (by rw [← hread, hk]; exact hv)
      have hle : k ≤ k' := Memory.first_le_of_read_ne_zero hm (by rw [hread, hk']; exact hv')
      obtain rfl := Nat.le_antisymm hle hle'
      obtain rfl : v = v' := hk.symm.trans ((hread k).trans hk')
      rw [ih htail htail' fun a => by rw [Memory.read_tail hm, Memory.read_tail hm', hread]]

/-- Settles O53, by induction on the listed cells: both Memories begin with the lowest cell that is not 0. -/
theorem canonicalMemoriesThatReadAlikeAreEqual : Obligations.CanonicalMemoriesThatReadAlikeAreEqual := by
  unfold Obligations.CanonicalMemoriesThatReadAlikeAreEqual
  exact fun _ _ => Memory.eq_of_read_eq

/-! ## Construction, reset and the status as the host reads it -/

/-- Commands but `CONSTRUCT` are refused before the first `CONSTRUCT` (47_host_commands.md R150). -/
theorem hostCommand_of_not_constructed {s : State} (hc : s.constructed = false) :
    (∀ v, hostCommand (.enqueue v) s = .refused .commandBeforeConstruct) ∧
      hostCommand .run s = .refused .commandBeforeConstruct := by
  simp [hostCommand, hostEnqueue, hostRun, hc]

/-- Settles O3: what an accepted CONSTRUCT leaves, its image read cell by cell. -/
theorem constructSetsEveryRegister : Obligations.ConstructSetsEveryRegister := by
  unfold Obligations.ConstructSetsEveryRegister
  refine ⟨fun s program inputs hfits => ?_, fun s hc => ?_⟩
  · obtain ⟨t, ht⟩ := hostConstruct_of_fits hfits
    refine ⟨t, ht, ?_⟩
    obtain ⟨-, -, -, -, rfl⟩ := hostConstruct_next ht
    have hread (a : Nat) : (Memory.image 0 program).read a = program.getD a 0 := by
      simpa using Memory.read_image 0 program a
    exact ⟨fun a _ => hread a, fun a ha => (hread a).trans (List.getD_eq_default _ _ ha),
      rfl, rfl, rfl, rfl, rfl, rfl, rfl⟩
  · obtain ⟨henqueue, hrun⟩ := hostCommand_of_not_constructed hc
    exact ⟨fun v => ⟨_, henqueue v⟩, _, hrun⟩

/-- Settles O1: the fields of `State.reset`; no cell of its Memory is listed. -/
theorem resetHoldsTheSpecifiedValues : Obligations.ResetHoldsTheSpecifiedValues := by
  unfold Obligations.ResetHoldsTheSpecifiedValues
  exact ⟨rfl, fun _ => rfl, rfl, rfl, rfl, rfl, rfl, rfl, rfl⟩

/-- Settles O9: the core's turn looks at `constructed` first. -/
theorem unconstructedCoreStops : Obligations.UnconstructedCoreStops := by
  unfold Obligations.UnconstructedCoreStops
  intro s hc
  simp [coreStep, hc]

theorem inEmpty_iff (s : State) : s.inEmpty = true ↔ s.q = [] := List.isEmpty_iff

theorem inFull_iff_of_finite {s : State} {n : Nat} (hdepth : s.cfg.fifoDepth = .finite n) (hfits : s.q.length ≤ n) :
    s.inFull = true ↔ s.q.length = n := by
  simp only [State.inFull, hdepth, Limit.exceeds, Bool.not_eq_true', decide_eq_false_iff_not]
  omega

theorem inFull_eq_false_of_inf {s : State} (hdepth : s.cfg.fifoDepth = .inf) : s.inFull = false := by
  simp [State.inFull, hdepth, Limit.exceeds]

/-- Settles O10: the code tables are finite, and the ports are the registers by definition. -/
theorem statusCodesAreTheTables : Obligations.StatusCodesAreTheTables := by
  unfold Obligations.StatusCodesAreTheTables
  exact ⟨rfl, rfl, fun s => ⟨inEmpty_iff s, fun _ => inFull_iff_of_finite, inFull_eq_false_of_inf,
    rfl, rfl, rfl, rfl, rfl, rfl, rfl, rfl⟩⟩

end Sys2Proof.Machine
end

section
/-!
SUPPORT. Memory as the fetch and the instances of a ring see it (20_memory.md): an instruction whose words stand at `pc`
is the one executed, a store is seen by the next fetch, and instances share no Memory.

The decoder reads back what the encoder wrote, in three parts: the opcode from the two low digits, each mode from its
own digit, each parameter from its own place. Only the words up to the instruction's width matter, so
`decode_encode_append` holds whatever words follow.
-/

namespace Sys2Proof

/-! ## The opcode number -/

/-- Opcode numbers have at most two digits and differ from each other (00_scope.md R7). -/
theorem Config.opc_of_wf {c : Config} (hc : c.wf = true) :
    (∀ n ∈ c.opc.toList, n ≤ 99) ∧ c.opc.toList.Nodup := by
  simp only [Config.wf, Bool.and_eq_true, List.all_eq_true, decide_eq_true_eq] at hc
  obtain ⟨⟨-, hle⟩, hnodup⟩ := hc
  exact ⟨hle, hnodup⟩

theorem Opcode.mem_all (o : Opcode) : o ∈ Opcode.all := by cases o <;> decide

theorem Opcode.number_lt {c : Config} (hc : c.wf = true) (o : Opcode) : o.number c < 100 :=
  Nat.lt_succ_of_le ((Config.opc_of_wf hc).1 _ (List.mem_map_of_mem (f := Opcode.number c) o.mem_all))

theorem Opcode.number_injective {c : Config} (hc : c.wf = true) {o o' : Opcode} (h : o.number c = o'.number c) :
    o = o' :=
  have hnodup : (Opcode.all.map (Opcode.number c)).Nodup := (Config.opc_of_wf hc).2
  List.inj_on_of_nodup_map hnodup o.mem_all o'.mem_all h

theorem Opcode.number_of_ofNumber {c : Config} {op : Nat} {o : Opcode} (h : Opcode.ofNumber c op = some o) :
    o.number c = op := by
  unfold Opcode.ofNumber at h
  simpa using List.find?_some h

theorem Opcode.ofNumber_number {c : Config} (hc : c.wf = true) (o : Opcode) :
    Opcode.ofNumber c (o.number c) = some o := by
  cases hfind : Opcode.ofNumber c (o.number c) with
  | none => exact absurd (beq_self_eq_true _) (List.find?_eq_none.mp hfind o o.mem_all)
  | some o' => rw [Opcode.number_injective hc (Opcode.number_of_ofNumber hfind)]

/-! ## The mode digits -/

theorem Mode.toDigit_lt (m : Mode) : m.toDigit < 10 := by
  cases m with
  | reserved k => exact Nat.add_lt_add_right k.isLt 3
  | position | immediate | relative => decide

theorem Mode.ofDigit_toDigit (m : Mode) : Mode.ofDigit m.toDigit = m := by
  cases m with
  | reserved k => exact congrArg Mode.reserved (Fin.ofNat_val_eq_self k)
  | position | immediate | relative => rfl

theorem digit_modeDigits {os : List (OperandKind × Operand)} {n : Nat} {ko : OperandKind × Operand}
    (h : os[n]? = some ko) : digit (modeDigits os) n = ko.2.mode.toDigit := by
  induction os generalizing n with
  | nil => cases h
  | cons e os ih =>
    have hlt := e.2.mode.toDigit_lt
    have htail : (e.2.mode.toDigit + 10 * modeDigits os) / 10 = modeDigits os := by omega
    cases n with
    | zero =>
      injection h with h
      subst h
      simp only [digit, modeDigits]
      omega
    | succ n =>
      rw [← ih (n := n) h]
      simp only [digit, modeDigits]
      rw [Nat.pow_succ', ← Nat.div_div_eq_div_mul, htail]

theorem Instr.word_mod {c : Config} (hc : c.wf = true) (i : Instr) : i.word c % 100 = i.opcode.number c := by
  have := Opcode.number_lt hc i.opcode
  simp only [Instr.word]
  omega

theorem Instr.digit_word {c : Config} (hc : c.wf = true) (i : Instr) (n : Nat) :
    digit (i.word c) (n + 2) = digit (modeDigits i.operands) n := by
  have hlt := Opcode.number_lt hc i.opcode
  have hmodes : i.word c / 100 = modeDigits i.operands := by simp only [Instr.word]; omega
  simp only [digit]
  rw [Nat.pow_add', ← Nat.div_div_eq_div_mul, hmodes]

/-! ## The parameter words -/

theorem getElem?_params {c : Config} {os : List (OperandKind × Operand)}
    (hos : os.all (fun ko => ko.2.complete c) = true) {n : Nat} {ko : OperandKind × Operand} (h : os[n]? = some ko) :
    (os.filterMap (fun ko => ko.2.param))[n]? = ko.2.param := by
  induction os generalizing n with
  | nil => cases h
  | cons e os ih =>
    obtain ⟨he, hos⟩ := Bool.and_eq_true_iff.mp (List.all_cons ▸ hos)
    obtain ⟨p, hp⟩ := Laws.EncodedWidth.param_of_complete he
    simp only [List.filterMap_cons, hp]
    cases n with
    | zero => injection h with h; rw [← h, hp]; rfl
    | succ n => exact ih hos h

/-! ## Decoding what was encoded -/

/-- An instruction is its opcode with its operands, numbered from 1. -/
theorem Opcode.assemble_operands {i : Instr} {operand : Nat → Operand}
    (h : ∀ n ko, i.operands[n]? = some ko → operand (n + 1) = ko.2) : i.opcode.assemble operand = i := by
  cases i with
  | add a b d | mul a b d | lt a b d | eq a b d =>
    simp [Instr.opcode, Opcode.assemble, h 0 (.src, a) rfl, h 1 (.src, b) rfl, h 2 (.dst, d) rfl]
  | jt a b | jf a b => simp [Instr.opcode, Opcode.assemble, h 0 (.src, a) rfl, h 1 (.src, b) rfl]
  | out a | arb a => simp [Instr.opcode, Opcode.assemble, h 0 (.src, a) rfl]
  | inp d => simp [Instr.opcode, Opcode.assemble, h 0 (.dst, d) rfl]
  | hlt => rfl

/-- The opcode read from the word of `i` is that of `i`, whatever the parameters are. -/
theorem decode_word_cons {c : Config} (hc : c.wf = true) (i : Instr) (params : List Int) :
    decode c ((i.word c : Int) :: params) = .ok (i.opcode.assemble (operandAt (i.word c) params)) := by
  have hnonneg : ¬ (i.word c : Int) < 0 := by omega
  simp only [decode, if_neg hnonneg, Int.toNat_natCast, Instr.word_mod hc, Opcode.ofNumber_number hc]

/-- Each operand is read back from its own digit and its own parameter word. -/
theorem operandAt_word {c : Config} (hc : c.wf = true) {i : Instr} {params : List Int} {n : Nat}
    {ko : OperandKind × Operand} (hko : i.operands[n]? = some ko) (hparam : params[n]? = ko.2.param) :
    operandAt (i.word c) params (n + 1) = ko.2 := by
  simp only [operandAt, Instr.digit_word hc, digit_modeDigits hko, Mode.ofDigit_toDigit, Nat.add_sub_cancel, hparam]

theorem decode_encode_append {c : Config} {i : Instr} (hc : c.wf = true) (hi : i.complete c = true) (rest : List Int) :
    decode c (encode c i ++ rest) = .ok i := by
  rw [encode, List.cons_append, decode_word_cons hc]
  refine congrArg _ (Opcode.assemble_operands fun n ko hko => operandAt_word hc hko ?_)
  have hparam := getElem?_params hi hko
  obtain ⟨p, hp⟩ := Laws.EncodedWidth.param_of_complete (List.all_eq_true.mp hi ko (List.mem_of_getElem? hko))
  rw [hp] at hparam ⊢
  obtain ⟨hlength, -⟩ := List.getElem?_eq_some_iff.mp hparam
  exact (List.getElem?_append_left hlength).trans hparam

/-! ## The width -/

theorem Instr.width_le_four (i : Instr) : i.width ≤ 4 := by
  cases i with
  | add | mul | lt | eq => exact le_refl 4
  | jt | jf => exact Nat.le_succ 3
  | inp | out | arb => exact Nat.le_add_right 2 2
  | hlt => exact Nat.le_add_right 1 3

theorem length_encode_eq_width {c : Config} {i : Instr} (hi : i.complete c = true) : (encode c i).length = i.width := by
  rw [Laws.EncodedWidth.length_encode hi]
  cases i <;> rfl

namespace Machine

/-! ## The instruction at `pc` -/

theorem coreStep_of_decode {s : State} {i : Instr} (hc : s.constructed = true) (hrun : s.runState = .run)
    (hdec : decode s.cfg s.fetched = .ok i) : coreStep s = exec i s := by
  simp [coreStep, hc, hrun, runInstruction, hdec]

/-- An instruction whose words stand at `pc` is what the fetch begins with. -/
theorem fetched_begins_with_encode {s : State} {i : Instr} (hi : i.complete s.cfg = true)
    (hwords : ∀ k, k < i.width → s.mem.read (s.pc + k) = (encode s.cfg i).getD k 0)
    (hlast : s.cfg.memCells.exceeds (s.pc + (i.width - 1)) = true) : encode s.cfg i <+: s.fetched := by
  refine List.prefix_iff_getElem?.mpr fun k hk => ?_
  have hwidth : k < i.width := length_encode_eq_width hi ▸ hk
  have hcell : s.cfg.memCells.exceeds (s.pc + k) = true := Limit.exceeds_of_le (by omega) hlast
  rw [getElem?_fetched s (hwidth.trans_le i.width_le_four), if_pos hcell, hwords k hwidth,
    List.getD_eq_getElem _ _ hk]

/-- Settles O18: the fetch begins with the instruction's words, and those decode to it. -/
theorem instructionInMemoryIsExecuted : Obligations.InstructionInMemoryIsExecuted := by
  unfold Obligations.InstructionInMemoryIsExecuted
  intro s i hcfg hc hrun hi hwords hlast
  obtain ⟨rest, hrest⟩ := fetched_begins_with_encode hi hwords hlast
  exact coreStep_of_decode hc hrun (hrest ▸ decode_encode_append hcfg hi rest)

/-! ## A store and the next fetch -/

/-- Settles O50: the cell stored to is read at its place in the fetch. -/
theorem storedWordIsFetchedNext : Obligations.StoredWordIsFetchedNext := by
  unfold Obligations.StoredWordIsFetchedNext
  intro s k j pc v hmem hj hpc hk
  subst hpc
  rw [getElem?_fetched _ hj]
  simp [hk, Memory.read_write_same hmem]

/-! ## The instances of a ring -/

/-- A visit after which the loop goes on has replaced the machine whose turn it was, and nothing else. -/
theorem Ring.visit_going {fuel : Nat} {r r' : Ring} (h : r.visit fuel = .going r') :
    ∃ s signal, r' = r.afterVisit s signal := by
  unfold Ring.visit at h
  split at h
  case h_1 => cases h
  case h_2 s _ =>
    split at h
    · injection h with h; exact ⟨_, _, h.symm⟩
    · split at h
      case h_1 => injection h with h; exact ⟨_, _, h.symm⟩
      case h_2 =>
        split at h
        · cases h
        · injection h with h; exact ⟨_, _, h.symm⟩
      all_goals cases h

/-- Settles O58: replacing one machine leaves the others and their number as they were. -/
theorem ringVisitTouchesOnlyItsInstance : Obligations.RingVisitTouchesOnlyItsInstance := by
  unfold Obligations.RingVisitTouchesOnlyItsInstance
  intro fuel r r' h
  obtain ⟨s, signal, rfl⟩ := Ring.visit_going h
  exact ⟨List.length_set, rfl, fun j hj => List.getElem?_set_ne hj.symm⟩

end Machine
end Sys2Proof
end

section
/-!
SUPPORT. Decoding (30_encoding.md): what the decoder answers to a word, what each operand resolves to by its mode, and
the core's step beside the spec's pseudocode.

`Reference.step` and `coreStep` divide the work differently: the spec's `Decode` resolves the operands, the model's
`decode` leaves them to `exec`. So they meet at a third place, `State.resolve`: resolving a decoded instruction is the
spec's `Decode` (`reference_decode`), and performing the spec's Operation on what was resolved is `exec`
(`exec_eq_conclude_resolve`).
-/

namespace Sys2Proof

/-! ## What the decoder answers to a word -/

/-- An opcode number selects no instruction exactly when it is none of the ten. -/
theorem Opcode.ofNumber_eq_none_iff {c : Config} {op : Nat} : Opcode.ofNumber c op = none ↔ op ∉ c.opc.toList := by
  have hall : Opcode.all.map (Opcode.number c) = c.opc.toList := rfl
  rw [← hall]
  simp [Opcode.ofNumber]

/-- Which of the ten it selects, tried in the table's order (30_encoding.md R84). -/
theorem Opcode.elim_ofNumber {α : Type} (c : Config) (op : Nat) (otherwise : α) (f : Opcode → α) :
    (Opcode.ofNumber c op).elim otherwise f =
      if op = c.opc.add then f .add
      else if op = c.opc.mul then f .mul
      else if op = c.opc.inp then f .inp
      else if op = c.opc.out then f .out
      else if op = c.opc.jt then f .jt
      else if op = c.opc.jf then f .jf
      else if op = c.opc.lt then f .lt
      else if op = c.opc.eq then f .eq
      else if op = c.opc.arb then f .arb
      else if op = c.opc.hlt then f .hlt
      else otherwise := by
  have elim_find_cons (o : Opcode) (os : List Opcode) :
      ((o :: os).find? fun o => o.number c == op).elim otherwise f =
        if op = o.number c then f o else (os.find? fun o => o.number c == op).elim otherwise f := by
    rw [List.find?_cons]
    by_cases h : op = o.number c
    · rw [if_pos h, beq_iff_eq.mpr h.symm]; rfl
    · rw [if_neg h, beq_eq_false_iff_ne.mpr (Ne.symm h)]
  simp only [Opcode.ofNumber, Opcode.all, elim_find_cons]
  rfl

section

variable {c : Config} {w : Int} {params : List Int}

theorem decode_cons_of_neg (hw : w < 0) : decode c (w :: params) = .error (.unknownOpcode (w.tmod 100)) := by
  simp only [decode, if_pos hw]

theorem decode_cons_of_nonneg (hw : 0 ≤ w) : decode c (w :: params) =
    (Opcode.ofNumber c (w.toNat % 100)).elim (.error (.unknownOpcode ((w.toNat % 100 : Nat) : Int)))
      fun o => .ok (o.assemble (operandAt w.toNat params)) := by
  simp only [decode, if_neg (Int.not_lt.mpr hw)]
  cases Opcode.ofNumber c (w.toNat % 100) <;> rfl

theorem decode_cons_of_unknown (hw : 0 ≤ w) (ho : Opcode.ofNumber c (w.toNat % 100) = none) :
    decode c (w :: params) = .error (.unknownOpcode ((w.toNat % 100 : Nat) : Int)) := by
  rw [decode_cons_of_nonneg hw, ho]; rfl

theorem decode_cons_of_known (hw : 0 ≤ w) {o : Opcode} (ho : Opcode.ofNumber c (w.toNat % 100) = some o) :
    decode c (w :: params) = .ok (o.assemble (operandAt w.toNat params)) := by
  rw [decode_cons_of_nonneg hw, ho]; rfl

/-- A non-negative word that decodes has one of the ten opcode numbers. -/
theorem decode_cons_ok (hw : 0 ≤ w) {i : Instr} (h : decode c (w :: params) = .ok i) :
    ∃ o, Opcode.ofNumber c (w.toNat % 100) = some o ∧ i = o.assemble (operandAt w.toNat params) := by
  cases ho : Opcode.ofNumber c (w.toNat % 100) with
  | none => rw [decode_cons_of_unknown hw ho] at h; cases h
  | some o => rw [decode_cons_of_known hw ho] at h; injection h with h; exact ⟨o, rfl, h.symm⟩

end

/-- The remainder of a negative word, of division truncated toward zero (30_encoding.md R74). -/
theorem tmod_hundred_of_neg {w : Int} (hw : w < 0) : w.tmod 100 = -((-w) % 100) := by
  have hneg : (-w).tmod 100 = (-w) % 100 := Int.tmod_eq_emod_of_nonneg (by omega)
  rw [Int.neg_tmod] at hneg
  omega

/-! ## Digits of no operand -/

/-- An instruction depends on no operand but those it has. -/
theorem Opcode.assemble_congr {o : Opcode} {f g : Nat → Operand}
    (h : ∀ n, 1 ≤ n → n ≤ (o.assemble f).operands.length → g n = f n) : o.assemble g = o.assemble f := by
  cases o with
  | add | mul | lt | eq =>
    change ∀ n, 1 ≤ n → n ≤ 3 → g n = f n at h
    simp only [Opcode.assemble, h 1 (by decide) (by decide), h 2 (by decide) (by decide), h 3 (by decide) (by decide)]
  | jt | jf =>
    change ∀ n, 1 ≤ n → n ≤ 2 → g n = f n at h
    simp only [Opcode.assemble, h 1 (by decide) (by decide), h 2 (by decide) (by decide)]
  | inp | out | arb =>
    change ∀ n, 1 ≤ n → n ≤ 1 → g n = f n at h
    simp only [Opcode.assemble, h 1 (by decide) (by decide)]
  | hlt => rfl

/-- Settles O12: both words select the same opcode, and the operands it has are read from digits that agree. -/
theorem digitsOfNoOperandAreIgnored : Obligations.DigitsOfNoOperandAreIgnored := by
  unfold Obligations.DigitsOfNoOperandAreIgnored
  intro c w w' params i hw hw' hop hdec hdigits
  obtain ⟨o, ho, rfl⟩ := decode_cons_ok hw hdec
  rw [decode_cons_of_known hw' (hop ▸ ho)]
  refine congrArg _ (Opcode.assemble_congr fun n hpos hlen => ?_)
  simp only [operandAt, hdigits n hpos hlen]

/-- Settles O16: the ten rows are evaluated. -/
theorem workedEncodingsDecode : Obligations.WorkedEncodingsDecode :=
  ⟨rfl, rfl, rfl, rfl, rfl, rfl, rfl, rfl, rfl, rfl⟩

namespace Machine

/-! ## Words that select no instruction -/

/-- Where the cell at `pc` exists, its word is the first one fetched. -/
theorem fetched_of_inMemory {s : State} (h : s.inMemory s.pc = true) :
    s.fetched = s.mem.read s.pc :: s.wordsFrom (s.pc + 1) 3 := by
  rw [State.fetched, State.wordsFrom, if_pos h]

theorem fetched_of_not_inMemory {s : State} (h : s.inMemory s.pc = false) : s.fetched = [] := by
  rw [State.fetched, State.wordsFrom, h]; rfl

theorem fetched_of_memRead_ok {s : State} {w : Int} (h : s.memRead s.pc = .ok w) :
    s.fetched = w :: s.wordsFrom (s.pc + 1) 3 := by
  obtain ⟨hmem, rfl⟩ := memRead_ok h
  exact fetched_of_inMemory hmem

theorem coreStep_of_reject {s : State} {r : Reject} (hc : s.constructed = true) (hrun : s.runState = .run)
    (hdec : decode s.cfg s.fetched = .error r) : coreStep s = .next (s.takeFault (s.rejectTrap r)) := by
  simp [coreStep, hc, hrun, runInstruction, hdec]

/-- Settles O13: such a word is rejected by the decoder, with the truncated remainder as its code. -/
theorem negativeWordRaisesUnknownOpcode : Obligations.NegativeWordRaisesUnknownOpcode := by
  unfold Obligations.NegativeWordRaisesUnknownOpcode
  intro s w hc hrun hread hw
  have hdec : decode s.cfg s.fetched = .error (.unknownOpcode (-((-w) % 100))) := by
    rw [fetched_of_memRead_ok hread, decode_cons_of_neg hw, tmod_hundred_of_neg hw]
  exact ⟨coreStep_of_reject hc hrun hdec, by omega, by omega⟩

/-- Settles O14: such a word is rejected by the decoder, whatever words follow it. -/
theorem unknownOpcodeIsIllegal : Obligations.UnknownOpcodeIsIllegal := by
  unfold Obligations.UnknownOpcodeIsIllegal
  refine ⟨fun s w hc hrun hread hw hop => ?_, fun op hlt => ?_⟩
  · have hcode : ((w.toNat % 100 : Nat) : Int) = w % 100 := by omega
    have hdec : decode s.cfg s.fetched = .error (.unknownOpcode (w % 100)) := by
      rw [fetched_of_memRead_ok hread, decode_cons_of_unknown hw (Opcode.ofNumber_eq_none_iff.mpr hop), hcode]
    exact coreStep_of_reject hc hrun hdec
  · simp only [OpcodeNumbers.toList, OpcodeNumbers.default, List.mem_cons, List.not_mem_nil, or_false]
    omega

/-- Settles O17: the schedule names the core's turn, and that turn executes what the words at `pc` decode to. -/
theorem stepRunsTheDecodedInstruction : Obligations.StepRunsTheDecodedInstruction := by
  unfold Obligations.StepRunsTheDecodedInstruction
  intro s i hc hrun hcore hdec
  rw [step_core hcore]
  exact coreStep_of_decode (s := { s with schedule := s.nextEvent.2 }) hc hrun hdec

/-! ## Operands by mode -/

section

variable {s : State} {a : Int}

theorem checkAddr_of_inMemory (h : s.inMemory a = true) : s.checkAddr a = .ok a.toNat := if_pos h

theorem checkAddr_of_not_inMemory (h : s.inMemory a = false) :
    s.checkAddr a = .error { cause := .addressOutOfRange, info := a } := by
  simp [State.checkAddr, h]

theorem memRead_of_inMemory (h : s.inMemory a = true) : s.memRead a = .ok (s.mem.read a.toNat) := by
  rw [State.memRead, checkAddr_of_inMemory h]

theorem memRead_of_not_inMemory (h : s.inMemory a = false) :
    s.memRead a = .error { cause := .addressOutOfRange, info := a } := by
  rw [State.memRead, checkAddr_of_not_inMemory h]

end

theorem srcVal_relative (s : State) (n : Nat) (p : Int) :
    s.srcVal n ⟨.relative, some p⟩ =
      if s.cfg.isWord (s.rb + p) then s.memRead (s.rb + p)
      else .error { cause := .arithmeticOverflow, info := n } := by
  simp only [State.srcVal, State.param, State.relative, State.chk]
  cases s.cfg.isWord (s.rb + p) <;> rfl

theorem dstAddr_relative (s : State) (n : Nat) (p : Int) :
    s.dstAddr n ⟨.relative, some p⟩ =
      if s.cfg.isWord (s.rb + p) then s.checkAddr (s.rb + p)
      else .error { cause := .arithmeticOverflow, info := n } := by
  simp only [State.dstAddr, State.param, State.relative, State.chk]
  cases s.cfg.isWord (s.rb + p) <;> rfl

/-- Settles O20, by the rules for reading a cell and for a relative address. -/
theorem sourceOperandByMode : Obligations.SourceOperandByMode := by
  unfold Obligations.SourceOperandByMode
  intro s n p
  refine ⟨fun _ => rfl, ?position, ?positionOutside, rfl, ?overflow, ?relative, ?relativeOutside, fun _ => rfl⟩
  case position => exact memRead_of_inMemory
  case positionOutside => exact memRead_of_not_inMemory
  case overflow => intro hw; rw [srcVal_relative, hw]; rfl
  case relative => intro hw hmem; rw [srcVal_relative, if_pos hw, memRead_of_inMemory hmem]
  case relativeOutside => intro hw hmem; rw [srcVal_relative, if_pos hw, memRead_of_not_inMemory hmem]

/-- Settles O21, by the rules for checking an address and for a relative address. -/
theorem destinationOperandByMode : Obligations.DestinationOperandByMode := by
  unfold Obligations.DestinationOperandByMode
  intro s n p
  refine ⟨fun _ => rfl, ?position, ?positionOutside, rfl, ?overflow, ?relative, ?relativeOutside, fun _ => rfl⟩
  case position => exact checkAddr_of_inMemory
  case positionOutside => exact checkAddr_of_not_inMemory
  case overflow => intro hw; rw [dstAddr_relative, hw]; rfl
  case relative => intro hw hmem; rw [dstAddr_relative, if_pos hw, checkAddr_of_inMemory hmem]
  case relativeOutside => intro hw hmem; rw [dstAddr_relative, if_pos hw, checkAddr_of_not_inMemory hmem]

/-! ## The spec's pseudocode: operands -/

theorem not_inMemory_iff {s : State} {a : Int} :
    s.inMemory a = false ↔ a < 0 ∨ s.cfg.memCells.exceeds a.toNat = false := by
  simp [← Bool.not_eq_true, inMemory_iff, imp_iff_not_or]

theorem reference_rangeChecked (s : State) (a : Int) : Reference.rangeChecked s a = s.checkAddr a := by
  simp only [Reference.rangeChecked, ← not_inMemory_iff]
  cases h : s.inMemory a with
  | true => rw [checkAddr_of_inMemory h]; rfl
  | false => rw [checkAddr_of_not_inMemory h]; rfl

theorem reference_memRead (s : State) (a : Int) : Reference.memRead s a = s.memRead a := by
  simp only [Reference.memRead, ← not_inMemory_iff]
  cases h : s.inMemory a with
  | true => rw [memRead_of_inMemory h]; rfl
  | false => rw [memRead_of_not_inMemory h]; rfl

/-- Operand `n` of the instruction whose word is `w`, as the decoder reads it from the words after `pc`. -/
def State.operand (s : State) (w n : Nat) : Operand := operandAt w (s.wordsFrom (s.pc + 1) 3) n

section

variable (s : State) (w : Nat) {n : Nat} (h1 : 1 ≤ n) (h3 : n ≤ 3)
include h1 h3

/-- Fetched with the instruction word or when the operand's turn comes, the parameter word is the same. -/
theorem memRead_eq_param : s.memRead ((s.pc : Int) + n) = s.param n (s.operand w n) := by
  have hcell : s.pc + 1 + (n - 1) = s.pc + n := by omega
  have haddr : ((s.pc : Int) + n) = ((s.pc + n : Nat) : Int) := by push_cast; rfl
  have hparam : (s.operand w n).param =
      if s.cfg.memCells.exceeds (s.pc + n) then some (s.mem.read (s.pc + n)) else none := by
    rw [State.operand, operandAt, getElem?_wordsFrom s (by omega), hcell]
  cases h : s.cfg.memCells.exceeds (s.pc + n) with
  | true =>
    rw [haddr, memRead_of_inMemory (inMemory_natCast s _ ▸ h), State.param, hparam, h]
    rfl
  | false =>
    rw [haddr, memRead_of_not_inMemory (inMemory_natCast s _ ▸ h), State.param, hparam, h, ← haddr]
    rfl

theorem reference_srcVal : Reference.srcVal s w n = s.srcVal n (s.operand w n) := by
  have hmode : (s.operand w n).mode = Mode.ofDigit (digit w (n + 1)) := rfl
  simp only [Reference.srcVal, State.srcVal, reference_memRead, memRead_eq_param s w h1 h3, hmode]
  cases s.param n (s.operand w n) with
  | error t => rfl
  | ok p =>
    match digit w (n + 1) with
    | 0 | 1 => rfl
    | 2 => exact (srcVal_relative s n p).symm
    | k + 3 => rfl

theorem reference_dstAddr : Reference.dstAddr s w n = s.dstAddr n (s.operand w n) := by
  have hmode : (s.operand w n).mode = Mode.ofDigit (digit w (n + 1)) := rfl
  simp only [Reference.dstAddr, State.dstAddr, reference_memRead, reference_rangeChecked, memRead_eq_param s w h1 h3,
    hmode]
  cases s.param n (s.operand w n) with
  | error t => rfl
  | ok p =>
    match digit w (n + 1) with
    | 0 | 1 => rfl
    | 2 => exact (dstAddr_relative s n p).symm
    | k + 3 => rfl

end

/-! ## The spec's pseudocode: the step -/

/-- A decoded instruction with its operands resolved in order (30_encoding.md R84). -/
def State.resolve (s : State) : Instr → Except Trap Reference.Resolved
  | .add a b d => do return .add (← s.srcVal 1 a) (← s.srcVal 2 b) (← s.dstAddr 3 d)
  | .mul a b d => do return .mul (← s.srcVal 1 a) (← s.srcVal 2 b) (← s.dstAddr 3 d)
  | .inp d => do return .inp (← s.dstAddr 1 d)
  | .out a => do return .out (← s.srcVal 1 a)
  | .jt a b => do return .jt (← s.srcVal 1 a) (← s.srcVal 2 b)
  | .jf a b => do return .jf (← s.srcVal 1 a) (← s.srcVal 2 b)
  | .lt a b d => do return .lt (← s.srcVal 1 a) (← s.srcVal 2 b) (← s.dstAddr 3 d)
  | .eq a b d => do return .eq (← s.srcVal 1 a) (← s.srcVal 2 b) (← s.dstAddr 3 d)
  | .arb a => do return .arb (← s.srcVal 1 a)
  | .hlt => .ok .hlt

/-- Decoding first and resolving the operands then is the spec's `Decode`. -/
theorem reference_decode (s : State) :
    Reference.decode s =
      match decode s.cfg s.fetched with
      | .error r => .error (s.rejectTrap r)
      | .ok i => s.resolve i := by
  rw [Reference.decode, reference_memRead]
  cases hmem : s.inMemory s.pc with
  | false => rw [memRead_of_not_inMemory hmem, fetched_of_not_inMemory hmem]; rfl
  | true =>
    rw [memRead_of_inMemory hmem, fetched_of_inMemory hmem, Int.toNat_natCast]
    generalize s.mem.read s.pc = w
    by_cases hw : w < 0
    · have hcode : -(((-w).toNat % 100 : Nat) : Int) = -((-w) % 100) := by omega
      rw [decode_cons_of_neg hw, tmod_hundred_of_neg hw, ← hcode]
      exact if_pos hw
    · have hnonneg : 0 ≤ w := Int.not_lt.mp hw
      have src1 := reference_srcVal s w.toNat (n := 1) (by decide) (by decide)
      have src2 := reference_srcVal s w.toNat (n := 2) (by decide) (by decide)
      have dst1 := reference_dstAddr s w.toNat (n := 1) (by decide) (by decide)
      have dst3 := reference_dstAddr s w.toNat (n := 3) (by decide) (by decide)
      refine (if_neg hw).trans ?_
      rw [src1, src2, dst1, dst3]
      refine (Opcode.elim_ofNumber s.cfg (w.toNat % 100)
        (.error { cause := .unknownOpcode, info := ((w.toNat % 100 : Nat) : Int) })
        fun o => s.resolve (o.assemble (s.operand w.toNat))).symm.trans ?_
      rw [decode_cons_of_nonneg hnonneg]
      cases Opcode.ofNumber s.cfg (w.toNat % 100) <;> rfl

/-! ## The spec's pseudocode: the ten Operations

An instruction of each format is its operands resolved and then the spec's Operation, where the format's own result on
resolved operands is that Operation's (`h`). -/

theorem chk_map {α : Type} (s : State) (info v : Int) (g : Int → α) :
    (s.chk info v).map g =
      if s.cfg.isWord v then .ok (g v) else .error { cause := .arithmeticOverflow, info := info } := by
  rw [State.chk]
  split <;> rfl

theorem checkAddr_map {α : Type} (s : State) (a : Int) (g : Nat → α) :
    (s.checkAddr a).map g =
      if a < 0 ∨ s.cfg.memCells.exceeds a.toNat = false then .error { cause := .addressOutOfRange, info := a }
      else .ok (g a.toNat) := by
  rw [← reference_rangeChecked, Reference.rangeChecked]
  split <;> rfl

section

variable (s : State) (a b d : Operand)

theorem binary_eq_conclude (f : Int → Int → Except Trap Int) (resolved : Int → Int → Nat → Reference.Resolved)
    (h : ∀ x y k, Reference.execute s (resolved x y k) = (f x y).map fun r => (s.store k r).advance 4) :
    s.binary a b d f = s.conclude
      ((do return resolved (← s.srcVal 1 a) (← s.srcVal 2 b) (← s.dstAddr 3 d)) >>= Reference.execute s) := by
  unfold State.binary
  cases s.srcVal 1 a with
  | error t => rfl
  | ok x =>
    cases s.srcVal 2 b with
    | error t => rfl
    | ok y =>
      cases s.dstAddr 3 d with
      | error t => rfl
      | ok k =>
        refine congrArg s.conclude (.trans ?_ (h x y k).symm)
        dsimp only
        cases f x y <;> rfl

theorem jumpWhen_eq_conclude (taken : Int → Bool) (resolved : Int → Int → Reference.Resolved)
    (h : ∀ x y, Reference.execute s (resolved x y) =
      if taken x then (s.checkAddr y).map s.jumpTo else .ok (s.advance 3)) :
    s.jumpWhen a b taken = s.conclude
      ((do return resolved (← s.srcVal 1 a) (← s.srcVal 2 b)) >>= Reference.execute s) := by
  unfold State.jumpWhen
  cases s.srcVal 1 a with
  | error t => rfl
  | ok x =>
    cases s.srcVal 2 b with
    | error t => rfl
    | ok y =>
      refine congrArg s.conclude (.trans ?_ (h x y).symm)
      dsimp only
      cases s.checkAddr y <;> rfl

theorem unary_eq_conclude (f : Int → Except Trap State) (resolved : Int → Reference.Resolved)
    (h : ∀ x, Reference.execute s (resolved x) = (f x).map fun u => u.advance 2) :
    s.unary a f = s.conclude ((do return resolved (← s.srcVal 1 a)) >>= Reference.execute s) := by
  unfold State.unary
  cases s.srcVal 1 a with
  | error t => rfl
  | ok x =>
    refine congrArg s.conclude (.trans ?_ (h x).symm)
    dsimp only
    cases f x <;> rfl

theorem execInp_eq_conclude :
    execInp d s = s.conclude ((do return .inp (← s.dstAddr 1 d)) >>= Reference.execute s) := by
  unfold execInp
  cases s.dstAddr 1 d with
  | error t => rfl
  | ok k =>
    refine congrArg s.conclude ?_
    change _ = Reference.execute s (.inp k)
    rw [Reference.execute]
    cases s.q <;> rfl

end

/-- Executing a decoded instruction is resolving its operands and performing the spec's Operation. -/
theorem exec_eq_conclude_resolve (i : Instr) (s : State) :
    exec i s = s.conclude (s.resolve i >>= Reference.execute s) := by
  cases i with
  | add a b d => exact binary_eq_conclude s a b d _ .add fun x y k => by rw [chk_map]; rfl
  | mul a b d => exact binary_eq_conclude s a b d _ .mul fun x y k => by rw [chk_map]; rfl
  | lt a b d =>
    refine binary_eq_conclude s a b d (fun x y => .ok (wordOfBool (decide (x < y)))) .lt fun x y k => ?_
    simp only [wordOfBool, decide_eq_true_eq]
    rfl
  | eq a b d =>
    refine binary_eq_conclude s a b d (fun x y => .ok (wordOfBool (decide (x = y)))) .eq fun x y k => ?_
    simp only [wordOfBool, decide_eq_true_eq]
    rfl
  | inp d => exact execInp_eq_conclude s d
  | out a => exact unary_eq_conclude s a (fun x => .ok (s.latchOutput x)) .out fun x => rfl
  | jt a b =>
    refine jumpWhen_eq_conclude s a b nonZero .jt fun x y => ?_
    rw [checkAddr_map]
    by_cases hx : x = 0
    · have htaken : nonZero x = false := by simp [nonZero, hx]
      rw [htaken]; exact if_pos hx
    · have htaken : nonZero x = true := by simp [nonZero, hx]
      rw [htaken]; exact if_neg hx
  | jf a b =>
    refine jumpWhen_eq_conclude s a b isZero .jf fun x y => ?_
    rw [checkAddr_map]
    by_cases hx : x = 0
    · have htaken : isZero x = true := by simp [isZero, hx]
      rw [htaken]; exact if_pos hx
    · have htaken : isZero x = false := by simp [isZero, hx]
      rw [htaken]; exact if_neg hx
  | arb a =>
    refine unary_eq_conclude s a _ .arb fun x => ?_
    cases hw : s.cfg.isWord (s.rb + x) with
    | true => rw [chk_of_isWord hw]; exact if_pos hw
    | false => rw [chk_of_not_isWord hw]; exact if_neg (Bool.eq_false_iff.mp hw)
  | hlt => rfl

/-- A step of the pseudocode ends as an instruction does: with its effect, or with the fault taken. -/
theorem next_reference_step (s : State) :
    .next (Reference.step s) = s.conclude (Reference.decode s >>= Reference.execute s) := by
  rw [Reference.step]
  cases Reference.decode s with
  | error t => rfl
  | ok i =>
    change _ = s.conclude (Reference.execute s i)
    dsimp only
    cases Reference.execute s i <;> rfl

/-- Settles O19: both decode to the same resolved instruction or the same fault, and perform the same Operation. -/
theorem coreStepIsTheSpecsPseudocode : Obligations.CoreStepIsTheSpecsPseudocode := by
  unfold Obligations.CoreStepIsTheSpecsPseudocode
  intro s hc hrun
  rw [next_reference_step, reference_decode]
  cases hdec : decode s.cfg s.fetched with
  | error r => exact coreStep_of_reject hc hrun hdec
  | ok i => rw [coreStep_of_decode hc hrun hdec, exec_eq_conclude_resolve]

end Machine
end Sys2Proof
end

section
/-!
SUPPORT. Arithmetic (40_arithmetic.md): what `ADD`, `MUL` and `ARB` answer once their operands resolve, and what the four
instructions of format `F4` leave alone.

Resolved operands leave only the instruction's own computation to conclude (`binary_of_resolved`, `unary_of_resolved`);
there an arithmetic result is a word, or `ArithmeticOverflow(0)` is taken (R104).
-/

namespace Sys2Proof.Machine

/-! ## The formats on resolved operands -/

theorem binary_of_resolved {s : State} {a b d : Operand} {x y : Int} {k : Nat} (hx : s.srcVal 1 a = .ok x)
    (hy : s.srcVal 2 b = .ok y) (hk : s.dstAddr 3 d = .ok k) (f : Int → Int → Except Trap Int) :
    s.binary a b d f = s.conclude ((f x y).map fun r => (s.store k r).advance 4) := by
  simp only [State.binary, hx, hy, hk]
  cases f x y <;> rfl

theorem unary_of_resolved {s : State} {a : Operand} {x : Int} (hx : s.srcVal 1 a = .ok x)
    (f : Int → Except Trap State) : s.unary a f = s.conclude ((f x).map fun u => u.advance 2) := by
  simp only [State.unary, hx]
  cases f x <;> rfl

/-! ## Results that are words, and results that are not (R101, R102, R104, R140) -/

section

variable {s : State} {a b d : Operand} {x y : Int} {k : Nat}

/-- `ADD` and `MUL` alike: a result that is a word is written. -/
theorem binary_chk_of_isWord (hx : s.srcVal 1 a = .ok x) (hy : s.srcVal 2 b = .ok y) (hk : s.dstAddr 3 d = .ok k)
    {op : Int → Int → Int} (hw : s.cfg.isWord (op x y) = true) :
    s.binary a b d (fun x y => s.chk 0 (op x y)) = .next ((s.store k (op x y)).advance 4) := by
  rw [binary_of_resolved hx hy hk, chk_of_isWord hw]
  rfl

/-- `ADD` and `MUL` alike: a result that is not a word is a fault. -/
theorem binary_chk_of_not_isWord (hx : s.srcVal 1 a = .ok x) (hy : s.srcVal 2 b = .ok y) (hk : s.dstAddr 3 d = .ok k)
    {op : Int → Int → Int} (hw : s.cfg.isWord (op x y) = false) :
    s.binary a b d (fun x y => s.chk 0 (op x y)) = .next (s.takeFault ⟨.arithmeticOverflow, 0⟩) := by
  rw [binary_of_resolved hx hy hk, chk_of_not_isWord hw]
  rfl

theorem execArb_of_isWord (hx : s.srcVal 1 a = .ok x) (hw : s.cfg.isWord (s.rb + x) = true) :
    execArb a s = .next ((s.setBase (s.rb + x)).advance 2) := by
  rw [execArb, unary_of_resolved hx, chk_of_isWord hw]
  rfl

theorem execArb_of_not_isWord (hx : s.srcVal 1 a = .ok x) (hw : s.cfg.isWord (s.rb + x) = false) :
    execArb a s = .next (s.takeFault ⟨.arithmeticOverflow, 0⟩) := by
  rw [execArb, unary_of_resolved hx, chk_of_not_isWord hw]
  rfl

end

/-- Settles O23: the sum is a word, so it is the result written. -/
theorem addWritesTheSum : Obligations.AddWritesTheSum := by
  unfold Obligations.AddWritesTheSum
  intro s a b d x y k hx hy hk hw
  exact binary_chk_of_isWord (op := (· + ·)) hx hy hk hw

/-- Settles O24: the product is a word, so it is the result written. -/
theorem mulWritesTheProduct : Obligations.MulWritesTheProduct := by
  unfold Obligations.MulWritesTheProduct
  intro s a b d x y k hx hy hk hw
  exact binary_chk_of_isWord (op := (· * ·)) hx hy hk hw

/-- Settles O27: a cell of a canonical Memory reads back as what was written, and `rb` as what was added up. -/
theorem resultsAreExactOrFault : Obligations.ResultsAreExactOrFault := by
  unfold Obligations.ResultsAreExactOrFault
  refine ⟨fun s a b d x y k hm hx hy hk => ⟨fun hw => ?_, fun hw => ?_, fun hw => ?_, fun hw => ?_⟩,
    fun s a x hx => ⟨fun hw => ?_, fun hw => ?_⟩, fun c v hinf => Config.isWord_inf hinf v⟩
  · exact ⟨_, addWritesTheSum s a b d x y k hx hy hk hw, Memory.read_write_same hm k (x + y)⟩
  · exact binary_chk_of_not_isWord (op := (· + ·)) hx hy hk hw
  · exact ⟨_, mulWritesTheProduct s a b d x y k hx hy hk hw, Memory.read_write_same hm k (x * y)⟩
  · exact binary_chk_of_not_isWord (op := (· * ·)) hx hy hk hw
  · exact ⟨_, execArb_of_isWord hx hw, rfl⟩
  · exact execArb_of_not_isWord hx hw

/-! ## What a computing instruction leaves alone (R100, R110, R191) -/

/-- A fault taken is one at `s.pc` that stores nothing. -/
theorem KeptOrFaulted.takeFault (s : State) (tr : Trap) : KeptOrFaulted s (s.takeFault tr) :=
  .inr ⟨rfl, rfl, rfl, rfl⟩

/-- Every cell but the destination's reads as before, and every cell does if the destination did not resolve. -/
def KeepsCellsBut (dst : Except Trap Nat) (s t : State) : Prop :=
  (∀ k, dst = .ok k → ∀ x, x ≠ k → t.mem.read x = s.mem.read x) ∧
  (∀ tr, dst = .error tr → ∀ x, t.mem.read x = s.mem.read x)

theorem KeepsCellsBut.of_mem_eq {dst : Except Trap Nat} {s t : State} (h : t.mem = s.mem) : KeepsCellsBut dst s t :=
  ⟨fun _ _ _ _ => by rw [h], fun _ _ _ => by rw [h]⟩

theorem KeepsCellsBut.of_mem_write {dst : Except Trap Nat} {s t : State} {k : Nat} {v : Int} (hk : dst = .ok k)
    (h : t.mem = s.mem.write k v) : KeepsCellsBut dst s t := by
  subst hk
  refine ⟨fun k' hk' x hx => ?_, nofun⟩
  cases hk'
  rw [h, Memory.read_write_other s.mem v hx]

/-- `ADD`, `MUL`, `LT`, `EQ` are format `F4`, and differ only in how the result is computed. -/
theorem exec_eq_binary {i : Instr} {a b d : Operand}
    (hi : i = .add a b d ∨ i = .mul a b d ∨ i = .lt a b d ∨ i = .eq a b d) (s : State) :
    ∃ f, exec i s = s.binary a b d f := by
  rcases hi with rfl | rfl | rfl | rfl
  · exact ⟨fun x y => s.chk 0 (x + y), rfl⟩
  · exact ⟨fun x y => s.chk 0 (x * y), rfl⟩
  · exact ⟨fun x y => .ok (wordOfBool (decide (x < y))), rfl⟩
  · exact ⟨fun x y => .ok (wordOfBool (decide (x = y))), rfl⟩

/-- Settles O36: format `F4` takes a fault, or stores at its destination and advances `pc`. -/
theorem computingInstructionsFrame : Obligations.ComputingInstructionsFrame := by
  unfold Obligations.ComputingInstructionsFrame
  intro i a b d s t hi hexec
  obtain ⟨f, hf⟩ := exec_eq_binary hi s
  obtain ⟨x, y, k, r, -, -, hk, -, rfl⟩ | ⟨tr, rfl⟩ := binary_cases (hf.symm.trans hexec)
  · exact ⟨rfl, rfl, rfl, rfl, ⟨rfl, rfl, rfl, rfl⟩, .inl ⟨rfl, rfl, rfl, rfl⟩, KeepsCellsBut.of_mem_write hk rfl⟩
  · exact ⟨rfl, rfl, rfl, rfl, ⟨rfl, rfl, rfl, rfl⟩, .takeFault s tr, KeepsCellsBut.of_mem_eq rfl⟩

end Sys2Proof.Machine
end

section
/-!
SUPPORT. Comparison (41_comparison.md): what `LT` and `EQ` answer once their operands resolve.

A comparison's outcome is the word 1 or 0 and goes through no overflow check, so format `F4` always writes it (R110).
-/

namespace Sys2Proof.Machine

/-- A test's outcome as the spec writes it, `1 if c else 0` (R111, R112). -/
theorem wordOfBool_decide (c : Prop) [Decidable c] : wordOfBool (decide c) = if c then 1 else 0 := by
  simp only [wordOfBool, decide_eq_true_eq]

/-- `LT` and `EQ` alike: whichever way the test comes out, its outcome is written. -/
theorem binary_wordOfBool {s : State} {a b d : Operand} {x y : Int} {k : Nat} (hx : s.srcVal 1 a = .ok x)
    (hy : s.srcVal 2 b = .ok y) (hk : s.dstAddr 3 d = .ok k) (r : Int → Int → Prop) [DecidableRel r] :
    s.binary a b d (fun x y => .ok (wordOfBool (decide (r x y)))) =
      .next ((s.store k (if r x y then 1 else 0)).advance 4) := by
  rw [binary_of_resolved hx hy hk, wordOfBool_decide]
  rfl

/-- Settles O25: the comparison is format `F4` with the signed order as its test. -/
theorem lessThanWritesOneOrZero : Obligations.LessThanWritesOneOrZero := by
  unfold Obligations.LessThanWritesOneOrZero
  intro s a b d x y k hx hy hk
  exact binary_wordOfBool hx hy hk (· < ·)

/-- Settles O26: the comparison is format `F4` with equality as its test. -/
theorem equalsWritesOneOrZero : Obligations.EqualsWritesOneOrZero := by
  unfold Obligations.EqualsWritesOneOrZero
  intro s a b d x y k hx hy hk
  exact binary_wordOfBool hx hy hk (· = ·)

end Sys2Proof.Machine
end

section
/-!
SUPPORT. Input and output (42_io.md): what `IN` and `OUT` answer once their operand resolves, and what `IN` and the five
instructions that store nothing leave alone.

Each frame splits on the fault taken or the instruction's effect (`execInp_cases`, `exec_cases`); the state answered is
then named by the updates that made it, and every register not among them is as before by definition.
-/

namespace Sys2Proof.Machine

/-! ## `IN` and `OUT` on a resolved operand (R121, R122) -/

theorem execInp_of_q_eq_cons {s : State} {d : Operand} {k : Nat} {v : Int} {rest : List Int}
    (hk : s.dstAddr 1 d = .ok k) (hq : s.q = v :: rest) :
    execInp d s = .next (((s.setQueue rest).store k v).advance 2) := by
  simp only [execInp, hk, hq]
  rfl

theorem execOut_of_resolved {s : State} {a : Operand} {x : Int} (hx : s.srcVal 1 a = .ok x) :
    execOut a s = .next ((s.latchOutput x).advance 2) := by
  rw [execOut, unary_of_resolved hx]
  rfl

/-- Settles O28: the destination resolves first, then the head of `Q` is popped and stored. -/
theorem inputPopsTheHead : Obligations.InputPopsTheHead := by
  unfold Obligations.InputPopsTheHead
  intro s d k v rest hk hq
  exact execInp_of_q_eq_cons hk hq

/-- Settles O30: latching the output never faults, so format `F2S` always goes on to advance `pc`. -/
theorem outputLatchesAndSuspends : Obligations.OutputLatchesAndSuspends := by
  unfold Obligations.OutputLatchesAndSuspends
  intro s a x hx
  exact execOut_of_resolved hx

/-! ## What `IN` leaves alone (R121, R191) -/

/-- Settles O37: `IN` pops the head and stores it at its destination, or takes a fault and pops nothing. -/
theorem inputFrame : Obligations.InputFrame := by
  unfold Obligations.InputFrame
  intro d s t hexec
  obtain ⟨k, v, rest, hk, hq, rfl⟩ | ⟨tr, rfl⟩ := execInp_cases hexec
  · exact ⟨rfl, rfl, rfl, ⟨rfl, rfl, rfl, rfl⟩, .inl ⟨rfl, rfl, rfl, rfl⟩, .inl ⟨v, hq, rfl⟩,
      KeepsCellsBut.of_mem_write hk rfl⟩
  · exact ⟨rfl, rfl, rfl, ⟨rfl, rfl, rfl, rfl⟩, .takeFault s tr, .inr ⟨rfl, rfl⟩, KeepsCellsBut.of_mem_eq rfl⟩

/-! ## What `OUT`, `JT`, `JF`, `ARB`, `HLT` leave alone (R122, R130, R140, R145, R191) -/

/-- A jump that does not fault changes `pc` and nothing else, whether or not it is taken. -/
theorem Effect.eq_jumpTo {s t : State} {i : Instr} (hi : (∃ a b, i = .jt a b) ∨ ∃ a b, i = .jf a b)
    (h : Effect s t i) : ∃ n, t = s.jumpTo n := by
  obtain ⟨a, b, rfl⟩ | ⟨a, b, rfl⟩ := hi
  all_goals
    obtain ⟨x, y, -, -, ⟨-, k, -, rfl⟩ | ⟨-, rfl⟩⟩ := h
    · exact ⟨k, rfl⟩
    · exact ⟨s.pc + 3, rfl⟩

/-- Settles O38: a fault changes the fault record and `STATE`, and the effect of each of the five changes registers of
its own, none of them the fault record. -/
theorem nonStoringInstructionsFrame : Obligations.NonStoringInstructionsFrame := by
  unfold Obligations.NonStoringInstructionsFrame
  intro i s t hexec hi
  obtain ⟨tr, rfl⟩ | heff := exec_cases hexec
  · exact ⟨fun _ => rfl, rfl, ⟨rfl, rfl, rfl, rfl⟩, fun _ => rfl, fun _ => ⟨rfl, rfl⟩,
      .inr ⟨rfl, rfl, rfl, rfl, rfl, rfl⟩, fun _ _ => .inr rfl⟩
  · have henv := heff.sameEnvironment
    rw [← or_assoc (a := ∃ a b, i = .jt a b)] at hi
    obtain ⟨a, rfl⟩ | hjump | ⟨a, rfl⟩ | rfl := hi
    · obtain ⟨x, -, rfl⟩ := heff
      exact ⟨fun _ => rfl, rfl, henv, fun _ => rfl, fun hout => absurd rfl (hout a), .inl ⟨rfl, rfl, rfl⟩,
        fun hout => absurd rfl (hout a)⟩
    · obtain ⟨n, rfl⟩ := heff.eq_jumpTo hjump
      exact ⟨fun _ => rfl, rfl, henv, fun _ => rfl, fun _ => ⟨rfl, rfl⟩, .inl ⟨rfl, rfl, rfl⟩, fun _ _ => .inl rfl⟩
    · obtain ⟨x, -, -, rfl⟩ := heff
      exact ⟨fun _ => rfl, rfl, henv, fun harb => absurd rfl (harb a), fun _ => ⟨rfl, rfl⟩, .inl ⟨rfl, rfl, rfl⟩,
        fun _ _ => .inl rfl⟩
    · cases heff
      exact ⟨fun _ => rfl, rfl, henv, fun _ => rfl, fun _ => ⟨rfl, rfl⟩, .inl ⟨rfl, rfl, rfl⟩,
        fun _ hhlt => absurd rfl hhlt⟩

end Sys2Proof.Machine
end

section
/-!
SUPPORT. Jumps (43_jump.md): what `JT` and `JF` answer once their operands resolve.

Format `F3` on resolved operands has three ends: taken to a cell that exists, taken outside Memory (R133), and not taken.
The two instructions differ only in the test that chooses among them (R131, R132).
-/

namespace Sys2Proof.Machine

section

variable {s : State} {a b : Operand} {x y : Int} {taken : Int → Bool}

theorem jumpWhen_of_resolved (hx : s.srcVal 1 a = .ok x) (hy : s.srcVal 2 b = .ok y) (taken : Int → Bool) :
    s.jumpWhen a b taken = s.conclude (if taken x then (s.checkAddr y).map s.jumpTo else .ok (s.advance 3)) := by
  simp only [State.jumpWhen, hx, hy]
  cases s.checkAddr y <;> rfl

theorem jumpWhen_of_taken_of_inMemory (hx : s.srcVal 1 a = .ok x) (hy : s.srcVal 2 b = .ok y) (ht : taken x = true)
    (hm : s.inMemory y = true) : s.jumpWhen a b taken = .next (s.jumpTo y.toNat) := by
  rw [jumpWhen_of_resolved hx hy, if_pos ht, checkAddr_of_inMemory hm]
  rfl

/-- R133: the fault is taken at the jump, which has not moved `pc`. -/
theorem jumpWhen_of_taken_of_not_inMemory (hx : s.srcVal 1 a = .ok x) (hy : s.srcVal 2 b = .ok y) (ht : taken x = true)
    (hm : s.inMemory y = false) : s.jumpWhen a b taken = .next (s.takeFault ⟨.addressOutOfRange, y⟩) := by
  rw [jumpWhen_of_resolved hx hy, if_pos ht, checkAddr_of_not_inMemory hm]
  rfl

/-- The target is resolved but not range checked, so any `y` will do (R130, R133). -/
theorem jumpWhen_of_not_taken (hx : s.srcVal 1 a = .ok x) (hy : s.srcVal 2 b = .ok y) (ht : taken x = false) :
    s.jumpWhen a b taken = .next (s.advance 3) := by
  rw [jumpWhen_of_resolved hx hy, ht]
  rfl

end

theorem nonZero_of_ne {x : Int} (h : x ≠ 0) : nonZero x = true := decide_eq_true h

theorem isZero_of_ne {x : Int} (h : x ≠ 0) : isZero x = false := decide_eq_false h

theorem nonZero_zero : nonZero 0 = false := rfl

theorem isZero_zero : isZero 0 = true := rfl

/-- Settles O31: `JT` is format `F3` with `nonZero` as its test. -/
theorem jumpIfTrue : Obligations.JumpIfTrue := by
  unfold Obligations.JumpIfTrue
  intro s a b x y hx hy
  constructor
  · intro hne hm
    exact jumpWhen_of_taken_of_inMemory hx hy (nonZero_of_ne hne) hm
  · rintro rfl
    exact jumpWhen_of_not_taken hx hy nonZero_zero

/-- Settles O32: `JF` is format `F3` with `isZero` as its test. -/
theorem jumpIfFalse : Obligations.JumpIfFalse := by
  unfold Obligations.JumpIfFalse
  intro s a b x y hx hy
  constructor
  · rintro rfl hm
    exact jumpWhen_of_taken_of_inMemory hx hy isZero_zero hm
  · intro hne
    exact jumpWhen_of_not_taken hx hy (isZero_of_ne hne)

/-- Settles O33: the range check of a taken jump's target is format `F3`'s, the same for both tests. -/
theorem takenJumpOutsideMemoryFaults : Obligations.TakenJumpOutsideMemoryFaults := by
  unfold Obligations.TakenJumpOutsideMemoryFaults
  intro s a b x y hx hy hm
  constructor
  · intro hne
    exact jumpWhen_of_taken_of_not_inMemory hx hy (nonZero_of_ne hne) hm
  · rintro rfl
    exact jumpWhen_of_taken_of_not_inMemory hx hy isZero_zero hm

end Sys2Proof.Machine
end

section
/-!
SUPPORT. Base adjustment (44_base_adjust.md): what `ARB` answers once its operand resolves and the sum is a word.
-/

namespace Sys2Proof.Machine

/-- Settles O34: the checked sum becomes `rb`, then format `F2S` advances `pc` by 2. -/
theorem adjustBaseAddsToTheBase : Obligations.AdjustBaseAddsToTheBase := by
  unfold Obligations.AdjustBaseAddsToTheBase
  intro s a x hx hw
  exact execArb_of_isWord hx hw

end Sys2Proof.Machine
end

section
/-!
SUPPORT. Halting (45_halt.md): what `HLT` answers, and what each agent's move from `HALTED` answers.
-/

namespace Sys2Proof.Machine

/-- Settles O35: `HLT` has no operand to resolve and no `pc` to advance, so it answers in every state. -/
theorem haltHalts : Obligations.HaltHalts := by
  unfold Obligations.HaltHalts
  intro s
  rfl

/-- R197, for any turn outside `RUN` that answers a state. -/
theorem coreStep_next_of_not_run {s t : State} (h : coreStep s = .next t) (hidle : s.runState ≠ .run) : t = s := by
  obtain ⟨-, ⟨hrun, -⟩ | ⟨hrun, -⟩ | ⟨-, heq⟩⟩ := coreStep_cases h
  · exact absurd hrun hidle
  · exact absurd hrun hidle
  · exact heq

/-- R155: of the two states that accept `RUN` without a fault, neither is `HALTED`. -/
theorem hostRun_next_of_halted {s t : State} (h : hostRun s = .next t) (hhalt : s.runState = .halted) :
    t = s.takeFault ⟨.alreadyHalted, 0⟩ := by
  obtain ⟨-, ⟨hready | hsuspended, -⟩ | ⟨-, heq⟩⟩ := hostRun_next h
  · exact absurd (hhalt.symm.trans hready) nofun
  · exact absurd (hhalt.symm.trans hsuspended) nofun
  · exact heq

/-- Settles O45: taking the move off the schedule leaves `STATE`, so the move that answers is one made in `HALTED`. -/
theorem haltedNeverRunsAgain : Obligations.HaltedNeverRunsAgain := by
  unfold Obligations.HaltedNeverRunsAgain
  intro s t hhalt hstep
  refine ⟨fun hcore => ?_, fun v henqueue => ?_, fun hrun => ?_⟩
  · rw [step_core hcore] at hstep
    exact coreStep_next_of_not_run hstep (hhalt.trans_ne nofun)
  · rw [step_host henqueue] at hstep
    obtain ⟨-, -, -, heq⟩ := hostEnqueue_next hstep
    exact heq
  · rw [step_host hrun] at hstep
    exact hostRun_next_of_halted hstep hhalt

end Sys2Proof.Machine
end

section
/-!
SUPPORT. The host (47_host_commands.md): what each command answers and when it is refused, then the procedures built
from the commands: waiting, the run primitive, collecting the outputs, and the ring.

An accepted `RUN` leaves one state to wait from, so everything a run primitive tells is `runResultOf` of the state
waiting ends in (`runUntilOutputOrHalt_of_next`); waiting is taken apart once, in `waits_or_steps`.
-/

namespace Sys2Proof.Machine

/-! ## Commands -/

theorem offer_of_next {c : Command} {s t : State} (h : hostCommand c s = .next t) : s.offer c = t := by
  rw [State.offer, h]

/-- A refused command has no effect (R150 to R152, R156). -/
theorem offer_of_refused {c : Command} {s : State} {r : Refusal} (h : hostCommand c s = .refused r) :
    s.offer c = s := by
  rw [State.offer, h]

/-! ### `CONSTRUCT` (R151) -/

theorem fits_of_hostConstruct_next {s t : State} {program inputs : List Int}
    (h : hostConstruct program inputs s = .next t) : s.fits program inputs := by
  obtain ⟨hmem, hfifo, hprogram, hinputs, -⟩ := hostConstruct_next h
  exact ⟨hmem, hfifo, List.all_eq_true.mp hprogram, List.all_eq_true.mp hinputs⟩

theorem hostConstruct_ne_fault (program inputs : List Int) (s : State) (f : Fault) :
    hostConstruct program inputs s ≠ .fault f := by
  unfold hostConstruct
  split_ifs
  all_goals exact nofun

theorem hostConstruct_refused_iff {s : State} {program inputs : List Int} :
    (∃ r, hostConstruct program inputs s = .refused r) ↔ ¬ s.fits program inputs := by
  constructor
  · rintro ⟨r, hr⟩ hfits
    obtain ⟨t, ht⟩ := hostConstruct_of_fits hfits
    exact absurd (hr.symm.trans ht) nofun
  · intro hnot
    cases h : hostConstruct program inputs s with
    | next t => exact absurd (fits_of_hostConstruct_next h) hnot
    | fault f => exact absurd h (hostConstruct_ne_fault program inputs s f)
    | refused r => exact ⟨r, rfl⟩

/-- Settles O4: a CONSTRUCT that fits is accepted and leaves a program's image, and one that is accepted fits. -/
theorem constructIsRefusedExactlyWhenItDoesNotFit : Obligations.ConstructIsRefusedExactlyWhenItDoesNotFit := by
  unfold Obligations.ConstructIsRefusedExactlyWhenItDoesNotFit
  refine fun s program inputs => ⟨hostConstruct_refused_iff, fun hnot => ?_, fun hfits => ?_⟩
  · obtain ⟨r, hr⟩ := hostConstruct_refused_iff.mpr hnot
    exact offer_of_refused hr
  · obtain ⟨t, ht⟩ := hostConstruct_of_fits hfits
    rw [offer_of_next (c := .construct program inputs) ht]
    obtain ⟨-, -, -, -, rfl⟩ := hostConstruct_next ht
    exact Memory.image_wf 0 program

/-! ### `ENQUEUE` (R152) -/

theorem hostEnqueue_of_room {s : State} {v : Int} (hc : s.constructed = true) (hv : s.cfg.isWord v = true)
    (hroom : s.inFull = false) : hostEnqueue v s = .next { s with q := s.q ++ [v] } := by
  simp [hostEnqueue, hc, hv, hroom]

theorem hostEnqueue_of_full {s : State} {v : Int} (hc : s.constructed = true) (hv : s.cfg.isWord v = true)
    (hfull : s.inFull = true) : hostEnqueue v s = .refused .fifoFull := by
  simp [hostEnqueue, hc, hv, hfull]

/-- Settles O5: of ENQUEUE's three conditions only IN_FULL is left, and it is the capacity test. -/
theorem enqueueAppendsUnlessFull : Obligations.EnqueueAppendsUnlessFull := by
  unfold Obligations.EnqueueAppendsUnlessFull
  refine fun s v hc hv => ⟨fun hroom => ?_, fun hfull => ?_, inFull_eq_false_of_inf⟩
  · exact hostEnqueue_of_room hc hv (by rw [State.inFull, hroom]; rfl)
  · have hrefused : hostCommand (.enqueue v) s = .refused .fifoFull :=
      hostEnqueue_of_full hc hv (by rw [State.inFull, hfull]; rfl)
    exact ⟨hrefused, offer_of_refused hrefused⟩

/-! ### `RUN` (R153, R155, R156) -/

theorem hostRun_of_ready_or_suspended {s : State} (hc : s.constructed = true)
    (hstate : s.runState = .ready ∨ s.runState = .suspended) : hostRun s = .next s.startRun := by
  rcases hstate with hstate | hstate
  · simp [hostRun, hc, hstate]
  · simp [hostRun, hc, hstate]

theorem hostRun_of_halted {s : State} (hc : s.constructed = true) (hstate : s.runState = .halted) :
    hostRun s = .next (s.takeFault ⟨.alreadyHalted, 0⟩) := by
  simp [hostRun, hc, hstate]

theorem hostRun_of_run {s : State} (hc : s.constructed = true) (hstate : s.runState = .run) :
    hostRun s = .refused .runWhileRunning := by
  simp [hostRun, hc, hstate]

theorem hostRun_of_faulted {s : State} (hc : s.constructed = true) (hstate : s.runState = .faulted) :
    hostRun s = .refused .runWhileFaulted := by
  simp [hostRun, hc, hstate]

/-- Settles O6: `startRun` writes the output register, `STATE` and the count of free values only. -/
theorem runStartsTheCore : Obligations.RunStartsTheCore := by
  unfold Obligations.RunStartsTheCore
  intro s hc hstate
  exact ⟨s.startRun, hostRun_of_ready_or_suspended hc hstate,
    rfl, rfl, rfl, rfl, rfl, rfl, rfl, rfl, rfl, rfl, rfl, rfl⟩

/-- Settles O7: RUN in HALTED takes the fault, and taking a fault writes these four registers. -/
theorem runAfterHaltFaultsWithAlreadyHalted : Obligations.RunAfterHaltFaultsWithAlreadyHalted := by
  unfold Obligations.RunAfterHaltFaultsWithAlreadyHalted
  exact ⟨rfl, fun _ hc hstate => hostRun_of_halted hc hstate⟩

/-- Settles O8: RUN is refused in both states, and a refused command has no effect. -/
theorem runWhileRunningOrFaultedIsRefused : Obligations.RunWhileRunningOrFaultedIsRefused := by
  unfold Obligations.RunWhileRunningOrFaultedIsRefused
  refine fun s hc => ⟨fun hstate => ?_, fun hstate => ?_⟩
  · have hrefused : hostCommand .run s = .refused .runWhileRunning := hostRun_of_run hc hstate
    exact ⟨hrefused, offer_of_refused hrefused⟩
  · have hrefused : hostCommand .run s = .refused .runWhileFaulted := hostRun_of_faulted hc hstate
    exact ⟨hrefused, offer_of_refused hrefused⟩

/-! ## Waiting (R153, R154) -/

theorem waitWhileRunning_succ_of_next {s t : State} (hrun : s.runState = .run) (hstep : coreStep s = .next t)
    (fuel : Nat) : waitWhileRunning (fuel + 1) s = waitWhileRunning fuel t := by
  simp only [waitWhileRunning, hrun, hstep]

theorem waitWhileRunning_of_not_run {s : State} (hidle : s.runState ≠ .run) (fuel : Nat) :
    waitWhileRunning fuel s = s := by
  cases fuel with
  | zero => rfl
  | succ fuel =>
    cases hstate : s.runState
    case run => exact absurd hstate hidle
    all_goals simp only [waitWhileRunning, hstate]

theorem waitWhileRunning_of_no_next {s : State} (hstuck : ∀ t, coreStep s ≠ .next t) (fuel : Nat) :
    waitWhileRunning fuel s = s := by
  by_cases hrun : s.runState = .run
  · cases fuel with
    | zero => rfl
    | succ fuel =>
      cases hstep : coreStep s with
      | next t => exact absurd hstep (hstuck t)
      | fault f => simp only [waitWhileRunning, hrun, hstep]
      | refused r => simp only [waitWhileRunning, hrun, hstep]
  · exact waitWhileRunning_of_not_run hrun fuel

/-- Waiting changes nothing however long it lasts, or its next move is a turn of the core in `RUN`. -/
theorem waits_or_steps (s : State) :
    (∀ fuel, waitWhileRunning fuel s = s) ∨ (s.runState = .run ∧ ∃ t, coreStep s = .next t) := by
  by_cases hrun : s.runState = .run
  · by_cases hstep : ∃ t, coreStep s = .next t
    · exact .inr ⟨hrun, hstep⟩
    · exact .inl (waitWhileRunning_of_no_next (not_exists.mp hstep))
  · exact .inl (waitWhileRunning_of_not_run hrun)

/-- Waiting for `fuel` steps and then for `k` more is waiting for all of them. -/
theorem waitWhileRunning_add (fuel k : Nat) (s : State) :
    waitWhileRunning (fuel + k) s = waitWhileRunning k (waitWhileRunning fuel s) := by
  induction fuel generalizing s with
  | zero => rw [Nat.zero_add]; rfl
  | succ fuel ih =>
    obtain hwaits | ⟨hrun, t, hstep⟩ := waits_or_steps s
    · rw [hwaits (fuel + 1), hwaits, hwaits]
    · rw [Nat.add_right_comm, waitWhileRunning_succ_of_next hrun hstep, waitWhileRunning_succ_of_next hrun hstep, ih]

theorem waitWhileRunning_preserves_inv {s : State} (hs : s.Inv) (fuel : Nat) : (waitWhileRunning fuel s).Inv := by
  induction fuel generalizing s with
  | zero => exact hs
  | succ fuel ih =>
    obtain hwaits | ⟨hrun, t, hstep⟩ := waits_or_steps s
    · rwa [hwaits]
    · rw [waitWhileRunning_succ_of_next hrun hstep]
      exact ih (coreStep_preserves_inv hs hstep)

/-! ## The run primitive (R154) -/

theorem runResultOf_eq_output {s t : State} {v : Int} :
    runResultOf s = .output v t ↔ s.runState = .suspended ∧ s.outData = v ∧ s = t := by
  cases hstate : s.runState <;> simp [runResultOf, hstate]

theorem runResultOf_eq_halted {s t : State} : runResultOf s = .halted t ↔ s.runState = .halted ∧ s = t := by
  cases hstate : s.runState <;> simp [runResultOf, hstate]

theorem runResultOf_eq_faulted {s t : State} : runResultOf s = .faulted t ↔ s.runState = .faulted ∧ s = t := by
  cases hstate : s.runState <;> simp [runResultOf, hstate]

theorem runResultOf_of_run {s : State} (hrun : s.runState = .run) : runResultOf s = .unfinished s := by
  rw [runResultOf, hrun]

theorem runUntilOutputOrHalt_of_next {s w : State} (h : hostRun s = .next w) (fuel : Nat) :
    runUntilOutputOrHalt fuel s = runResultOf (waitWhileRunning fuel w) := by
  rw [runUntilOutputOrHalt, h]

theorem runUntilOutputOrHalt_of_refused {s : State} {r : Refusal} (h : hostRun s = .refused r) (fuel : Nat) :
    runUntilOutputOrHalt fuel s = .refused r := by
  rw [runUntilOutputOrHalt, h]

/-- Only an accepted `RUN` gives a result that is not a refusal. -/
theorem exists_hostRun_next {fuel : Nat} {s : State} {result : RunResult} (h : runUntilOutputOrHalt fuel s = result)
    (haccepted : ∀ r, result ≠ .refused r) :
    ∃ w, hostRun s = .next w ∧ runResultOf (waitWhileRunning fuel w) = result := by
  unfold runUntilOutputOrHalt at h
  split at h
  case h_1 w hw => exact ⟨w, hw, h⟩
  all_goals exact absurd h.symm (haccepted _)

theorem runState_of_run_output {fuel : Nat} {s t : State} {v : Int} (h : runUntilOutputOrHalt fuel s = .output v t) :
    t.runState = .suspended ∧ t.outData = v := by
  obtain ⟨w, -, hw⟩ := exists_hostRun_next h nofun
  obtain ⟨hstate, hv, rfl⟩ := runResultOf_eq_output.mp hw
  exact ⟨hstate, hv⟩

theorem runState_of_run_halted {fuel : Nat} {s t : State} (h : runUntilOutputOrHalt fuel s = .halted t) :
    t.runState = .halted := by
  obtain ⟨w, -, hw⟩ := exists_hostRun_next h nofun
  obtain ⟨hstate, rfl⟩ := runResultOf_eq_halted.mp hw
  exact hstate

/-- A run from a state that satisfies the invariant tells of one that does. -/
theorem exists_inv_runResultOf {fuel : Nat} {s : State} (hs : s.Inv) {result : RunResult}
    (h : runUntilOutputOrHalt fuel s = result) (haccepted : ∀ r, result ≠ .refused r) :
    ∃ u : State, u.Inv ∧ runResultOf u = result := by
  obtain ⟨w, hw, hresult⟩ := exists_hostRun_next h haccepted
  exact ⟨_, waitWhileRunning_preserves_inv (hostRun_preserves_inv hs hw) fuel, hresult⟩

/-- Settles O54: waiting keeps the invariant, which fixes `OUT_VALID` and `FCAUSE` in the state it ends in. -/
theorem runResultsAreTheTable : Obligations.RunResultsAreTheTable := by
  unfold Obligations.RunResultsAreTheTable
  intro fuel s t hs
  refine ⟨fun v h => ?_, fun h => ?_, fun h => ?_⟩
  · obtain ⟨u, hinv, hresult⟩ := exists_inv_runResultOf hs h nofun
    obtain ⟨hstate, hv, rfl⟩ := runResultOf_eq_output.mp hresult
    exact ⟨hstate, hinv.outValid_iff.mpr hstate, hv⟩
  · obtain ⟨u, hinv, hresult⟩ := exists_inv_runResultOf hs h nofun
    obtain ⟨hstate, rfl⟩ := runResultOf_eq_halted.mp hresult
    exact ⟨hstate, hinv.outValid_eq (hstate.trans_ne nofun), hinv.fcause_eq (hstate.trans_ne nofun)⟩
  · obtain ⟨u, hinv, hresult⟩ := exists_inv_runResultOf hs h nofun
    obtain ⟨hstate, rfl⟩ := runResultOf_eq_faulted.mp hresult
    exact ⟨hstate, hinv.fcause_iff.mpr hstate⟩

/-- Settles O55: the cases of waiting; more steps are waited for from where the first ended, where nothing changes. -/
theorem waitingStepsTheCoreWhileInRun : Obligations.WaitingStepsTheCoreWhileInRun := by
  unfold Obligations.WaitingStepsTheCoreWhileInRun
  refine ⟨fun fuel s t hrun hstep => waitWhileRunning_succ_of_next hrun hstep fuel, ?_,
    fun fuel k s hended => ?_, ?_⟩
  · rintro fuel s (rfl | hidle)
    · rfl
    · exact waitWhileRunning_of_not_run hidle fuel
  · rw [waitWhileRunning_add, waitWhileRunning_of_not_run hended]
  · rintro fuel s w t hw rfl
    rw [runUntilOutputOrHalt_of_next hw]
    exact ⟨fun h => runResultOf_eq_output.mpr ⟨h, rfl, rfl⟩, fun h => runResultOf_eq_halted.mpr ⟨h, rfl⟩,
      fun h => runResultOf_eq_faulted.mpr ⟨h, rfl⟩, runResultOf_of_run⟩

/-! ## Collecting the outputs (R157) -/

section

variable {fuel : Nat} {s t : State} (runs : Nat) (outs : List Int)

theorem collectAllOutputs_of_output {v : Int} (h : runUntilOutputOrHalt fuel s = .output v t) :
    collectAllOutputs fuel (runs + 1) outs s = collectAllOutputs fuel runs (outs ++ [v]) t := by
  rw [collectAllOutputs, h]

theorem collectAllOutputs_of_halted (h : runUntilOutputOrHalt fuel s = .halted t) :
    collectAllOutputs fuel (runs + 1) outs s = .outputs outs t := by
  rw [collectAllOutputs, h]

theorem collectAllOutputs_of_faulted (h : runUntilOutputOrHalt fuel s = .faulted t) :
    collectAllOutputs fuel (runs + 1) outs s = .failed t := by
  rw [collectAllOutputs, h]

end

/-- A list is returned at the first run that halts: after an output, by the runs left and with that output appended. -/
theorem collectAllOutputs_succ_outputs {fuel runs : Nat} {outs result : List Int} {s t : State}
    (h : collectAllOutputs fuel (runs + 1) outs s = .outputs result t) :
    (runUntilOutputOrHalt fuel s = .halted t ∧ result = outs) ∨
      ∃ v u, runUntilOutputOrHalt fuel s = .output v u ∧
        collectAllOutputs fuel runs (outs ++ [v]) u = .outputs result t := by
  rw [collectAllOutputs] at h
  split at h
  case h_1 v u hrun => exact .inr ⟨v, u, hrun, h⟩
  case h_2 u hrun =>
    injection h with hresult ht
    exact .inl ⟨ht ▸ hrun, hresult.symm⟩
  all_goals cases h

theorem collectAllOutputs_outputs {fuel runs : Nat} {outs result : List Int} {s t : State}
    (h : collectAllOutputs fuel runs outs s = .outputs result t) :
    t.runState = .halted ∧ outs <+: result ∧ result.length < outs.length + runs := by
  induction runs generalizing outs s with
  | zero => cases h
  | succ runs ih =>
    obtain ⟨hhalt, rfl⟩ | ⟨v, u, -, hrest⟩ := collectAllOutputs_succ_outputs h
    · exact ⟨runState_of_run_halted hhalt, List.prefix_rfl, by omega⟩
    · obtain ⟨hstate, hprefix, hlength⟩ := ih hrest
      rw [List.length_append, List.length_singleton] at hlength
      exact ⟨hstate, (List.prefix_append outs [v]).trans hprefix, by omega⟩

/-- Settles O56: one equation for each result of a run, and an induction on the runs for a list returned. -/
theorem collectEndsHaltedWithOutputsAppended : Obligations.CollectEndsHaltedWithOutputsAppended := by
  unfold Obligations.CollectEndsHaltedWithOutputsAppended
  refine fun fuel runs outs s => ⟨fun v t h => ?_, fun t => collectAllOutputs_of_halted runs outs,
    fun t => collectAllOutputs_of_faulted runs outs, fun result t => collectAllOutputs_outputs⟩
  obtain ⟨hstate, hv⟩ := runState_of_run_output h
  exact ⟨hstate, hv.symm, collectAllOutputs_of_output runs outs h⟩

/-! ## The ring's set-up (R166, R168) -/

theorem ringInstances_constructed {c : Config} {program config : List Int} {insts : List State}
    (h : ringInstances c program config = some insts) :
    List.Forall₂ (fun v s => ringInstance c program v = .next s) config insts := by
  induction config generalizing insts with
  | nil =>
    cases h
    exact .nil
  | cons v vs ih =>
    rw [ringInstances] at h
    split at h
    case h_1 s ss hs hss =>
      cases h
      exact .cons hs (ih hss)
    case h_2 => cases h

theorem ringInstance_next {c : Config} {program : List Int} {v : Int} {s : State}
    (h : ringInstance c program v = .next s) :
    s.q = [v] ∧ s.pc = 0 ∧ s.rb = 0 ∧ s.runState = .ready ∧ ∀ a, s.mem.read a = program.getD a 0 := by
  obtain ⟨-, -, -, -, rfl⟩ := hostConstruct_next h
  exact ⟨rfl, rfl, rfl, rfl, fun a => by simpa using Memory.read_image 0 program a⟩

theorem ringSetup_some {c : Config} {program config : List Int} {seed : Int} {r : Ring}
    (h : ringSetup c program config seed = some r) :
    ringInstances c program config = some r.insts ∧ r.signal = seed ∧ r.turn = 0 := by
  unfold ringSetup at h
  split at h
  case h_1 insts hinsts =>
    cases h
    exact ⟨hinsts, rfl, rfl⟩
  case h_2 => cases h

/-- Settles O59: the instances match the configuration value by value, each what its CONSTRUCT leaves. -/
theorem ringSetupConstructsEachInstance : Obligations.RingSetupConstructsEachInstance := by
  unfold Obligations.RingSetupConstructsEachInstance
  intro c program config seed r h
  obtain ⟨hinsts, hsignal, hturn⟩ := ringSetup_some h
  have hall := ringInstances_constructed hinsts
  refine ⟨hall.length_eq.symm, hsignal, hturn, fun i v hv => ?_⟩
  obtain ⟨hi, rfl⟩ := List.getElem?_eq_some_iff.mp hv
  have hi' : i < r.insts.length := hall.length_eq ▸ hi
  exact ⟨r.insts[i], List.getElem?_eq_getElem hi', ringInstance_next (hall.get hi hi')⟩

/-! ## A visit of the ring (R167, R170) -/

/-- What a visit comes to when the run it made has come to a result. -/
def Ring.afterRun (r : Ring) : RunResult → RingResult
  | .output v t => .going (r.afterVisit t v)
  | .halted t =>
    if r.turn + 1 = r.insts.length then .finished r.signal (r.afterVisit t r.signal)
    else .going (r.afterVisit t r.signal)
  | .faulted t => .failed r.turn t
  | .unfinished t => .unfinished r.turn t
  | .refused _ => .refused

section

variable {r : Ring} {s : State} (hs : r.insts[r.turn]? = some s)
include hs

theorem Ring.visit_of_halted (hhalt : s.runState = .halted) (fuel : Nat) :
    r.visit fuel = .going (r.afterVisit s r.signal) := by
  simp only [Ring.visit, hs, if_pos hhalt]

theorem Ring.visit_of_not_halted (hlive : s.runState ≠ .halted) (fuel : Nat) :
    r.visit fuel = r.afterRun (feedThenRun fuel r.signal s) := by
  simp only [Ring.visit, hs, if_neg hlive]
  cases feedThenRun fuel r.signal s <;> rfl

end

theorem feedThenRun_of_next {s u : State} {signal : Int} (h : hostEnqueue signal s = .next u) (fuel : Nat) :
    feedThenRun fuel signal s = runUntilOutputOrHalt fuel u := by
  rw [feedThenRun, h]

theorem feedThenRun_of_refused {s : State} {signal : Int} {e : Refusal} (h : hostEnqueue signal s = .refused e)
    (fuel : Nat) : feedThenRun fuel signal s = .refused e := by
  rw [feedThenRun, h]

/-- Settles O57: a visit to a machine not halted is what its run comes to, and that is read off the state waiting ends in. -/
theorem ringVisitFeedsThenRuns : Obligations.RingVisitFeedsThenRuns := by
  unfold Obligations.RingVisitFeedsThenRuns
  refine fun fuel r s hs => ⟨fun hhalt => Ring.visit_of_halted hs hhalt fuel, fun hlive => ?_⟩
  rw [Ring.visit_of_not_halted hs hlive]
  refine ⟨fun e he => ?_, fun u e hu he => ?_, ?_⟩
  · rw [feedThenRun_of_refused he, Ring.afterRun]
  · rw [feedThenRun_of_next hu, runUntilOutputOrHalt_of_refused he, Ring.afterRun]
  · rintro u w t hu hw rfl
    rw [feedThenRun_of_next hu, runUntilOutputOrHalt_of_next hw]
    refine ⟨fun hstate => ?_, fun hstate hnotLast => ?_, fun hstate hlast => ?_, fun hstate => ?_, fun hstate => ?_⟩
    · rw [runResultOf_eq_output.mpr ⟨hstate, rfl, rfl⟩]
      rfl
    · rw [runResultOf_eq_halted.mpr ⟨hstate, rfl⟩]
      exact if_neg hnotLast
    · rw [runResultOf_eq_halted.mpr ⟨hstate, rfl⟩]
      exact ⟨_, if_pos hlast⟩
    · rw [runResultOf_eq_faulted.mpr ⟨hstate, rfl⟩]
      rfl
    · rw [runResultOf_of_run hstate]
      rfl

end Sys2Proof.Machine
end

section
/-!
SUPPORT. Exceptions (60_exceptions.md): which fault an instruction takes, what a fault leaves alone, what a step from
`FAULTED` can still change, and what the core's turn answers outside `RUN`.

Resolving the operands stops at their first fault (`resolve_of_operandFault`), and an instruction is its operands
resolved and then its Operation (`exec_eq_conclude_resolve`), so that fault is the one taken (R189). A turn in `RUN` that
ends in `FAULTED` is a fault taken and nothing else (`coreStep_takes_fault`).
-/

namespace Sys2Proof.Machine

/-! ## The first fault of the operands (R189, R190) -/

section

variable {s : State} {n : Nat} {o : Operand} {os : List (OperandKind × Operand)} {tr : Trap} {α : Type}

/-- Resolving a source operand and then the rest raises the operands' first fault, if resolving the rest does. -/
theorem srcVal_bind_of_operandFault {f : Int → Except Trap α} (h : s.operandFault n ((.src, o) :: os) = some tr)
    (hrest : s.operandFault (n + 1) os = some tr → ∀ x, f x = .error tr) : s.srcVal n o >>= f = .error tr := by
  rw [State.operandFault] at h
  cases hx : s.srcVal n o with
  | error t => rw [hx] at h; injection h with h; rw [h]; rfl
  | ok x => rw [hx] at h; exact hrest h x

/-- Resolving a destination operand and then the rest raises the operands' first fault, if resolving the rest does. -/
theorem dstAddr_bind_of_operandFault {f : Nat → Except Trap α} (h : s.operandFault n ((.dst, o) :: os) = some tr)
    (hrest : s.operandFault (n + 1) os = some tr → ∀ k, f k = .error tr) : s.dstAddr n o >>= f = .error tr := by
  rw [State.operandFault] at h
  cases hk : s.dstAddr n o with
  | error t => rw [hk] at h; injection h with h; rw [h]; rfl
  | ok k => rw [hk] at h; exact hrest h k

end

theorem resolve_of_operandFault {s : State} {i : Instr} {tr : Trap} (h : s.operandFault 1 i.operands = some tr) :
    s.resolve i = .error tr := by
  cases i with
  | add a b d | mul a b d | lt a b d | eq a b d =>
    exact srcVal_bind_of_operandFault h fun h _ => srcVal_bind_of_operandFault h fun h _ =>
      dstAddr_bind_of_operandFault h nofun
  | jt a b | jf a b =>
    exact srcVal_bind_of_operandFault h fun h _ => srcVal_bind_of_operandFault h nofun
  | out a | arb a => exact srcVal_bind_of_operandFault h nofun
  | inp d => exact dstAddr_bind_of_operandFault h nofun
  | hlt => cases h

/-- Settles O22: an instruction resolves its operands before its Operation, and concludes with the fault they raise. -/
theorem firstOperandFaultIsTaken : Obligations.FirstOperandFaultIsTaken := by
  unfold Obligations.FirstOperandFaultIsTaken
  intro i s tr h
  rw [exec_eq_conclude_resolve, resolve_of_operandFault h]
  rfl

/-! ## Two faults that are not an operand's (R183, R186) -/

/-- Settles O15: no word is fetched beyond the last cell, and no word decodes to the fault of the fetch. -/
theorem fetchBeyondMemoryFaults : Obligations.FetchBeyondMemoryFaults := by
  unfold Obligations.FetchBeyondMemoryFaults
  intro s hc hrun hend
  have hfetched : s.fetched = [] := fetched_of_not_inMemory ((inMemory_natCast s s.pc).trans hend)
  have hdec : decode s.cfg s.fetched = .error .noWord := by rw [hfetched, decode]
  exact coreStep_of_reject hc hrun hdec

theorem execInp_of_q_eq_nil {s : State} {d : Operand} {k : Nat} (hk : s.dstAddr 1 d = .ok k) (hq : s.q = []) :
    execInp d s = .next (s.takeFault ⟨.inputUnderflow, 0⟩) := by
  simp only [execInp, hk, hq]
  rfl

/-- Settles O29: the destination resolves, so the empty `Q` is what `IN` faults on. -/
theorem inputFromEmptyQueueUnderflows : Obligations.InputFromEmptyQueueUnderflows := by
  unfold Obligations.InputFromEmptyQueueUnderflows
  exact ⟨rfl, fun s d k hk hq => execInp_of_q_eq_nil hk hq⟩

/-! ## What a fault leaves alone (R191) -/

/-- A completed instruction never leaves `FAULTED` in `STATE`, so a turn that ends there took a fault and no more. -/
theorem coreStep_takes_fault {s t : State} (h : coreStep s = .next t) (hrun : s.runState = .run)
    (hfault : t.runState = .faulted) : ∃ tr, t = s.takeFault tr := by
  obtain ⟨-, ⟨-, i, -, hexec⟩ | ⟨-, r, -, ht⟩ | ⟨hidle, -⟩⟩ := coreStep_cases h
  · obtain htaken | heff := exec_cases hexec
    · exact htaken
    · exact absurd ((heff.runState_eq hrun).symm.trans hfault) (stateAfter_ne_faulted i)
  · exact ⟨_, ht⟩
  · exact absurd hrun hidle

/-- Settles O39: the turn took a fault, which writes the fault record and `STATE` alone. -/
theorem faultsArePrecise : Obligations.FaultsArePrecise := by
  unfold Obligations.FaultsArePrecise
  intro s t hrun hstep hfault
  obtain ⟨tr, rfl⟩ := coreStep_takes_fault hstep hrun hfault
  exact ⟨rfl, rfl, rfl, rfl, rfl, rfl, rfl, ⟨rfl, rfl, rfl, rfl⟩⟩

/-! ## Outside `RUN`, and `FAULTED` in particular (R192, R197) -/

/-- Settles O46, by the four values of `STATE` other than `RUN`. -/
theorem idleCoreKeepsAllState : Obligations.IdleCoreKeepsAllState := by
  unfold Obligations.IdleCoreKeepsAllState
  intro s hc hidle
  cases hstate : s.runState with
  | run => exact absurd hstate hidle
  | ready | suspended | halted | faulted => simp [coreStep, hc, hstate]

theorem final_of_faulted {s : State} (hfault : s.runState = .faulted) : s.final = false := by
  simp [State.final, hfault]

/-- `RUN` is refused in `FAULTED`, so `ENQUEUE` is the one command left beside `CONSTRUCT`. -/
theorem hostCommand_next_of_faulted {c : Command} {s t : State} (h : hostCommand c s = .next t)
    (hfault : s.runState = .faulted) :
    (∃ program inputs, c = .construct program inputs) ∨ ∃ v, t = { s with q := s.q ++ [v] } := by
  cases c with
  | construct program inputs => exact .inl ⟨program, inputs, rfl⟩
  | enqueue v =>
    obtain ⟨-, -, -, ht⟩ := hostEnqueue_next h
    exact .inr ⟨v, ht⟩
  | run =>
    obtain ⟨hc, -⟩ := hostRun_next h
    exact absurd (h.symm.trans (hostRun_of_faulted hc hfault)) nofun

/-- All that a step from `FAULTED` can do, short of a `CONSTRUCT`: a move off the schedule, and words put in `Q`. -/
theorem step_next_of_faulted {s t : State} (h : step s = .next t) (hfault : s.runState = .faulted)
    (hkeep : ∀ program inputs, s.nextEvent.1 ≠ .host (.construct program inputs)) :
    ∃ q, t = { s with q := q, schedule := s.nextEvent.2 } := by
  cases hev : s.nextEvent.1 with
  | core =>
    rw [step_core hev] at h
    exact ⟨s.q, coreStep_next_of_not_run h (hfault.trans_ne nofun)⟩
  | host c =>
    rw [step_host hev] at h
    obtain ⟨program, inputs, rfl⟩ | ⟨v, ht⟩ := hostCommand_next_of_faulted h hfault
    · exact absurd hev (hkeep program inputs)
    · exact ⟨s.q ++ [v], ht⟩

/-- Settles O44: neither `Q` nor the schedule, all that such a step changes, is the fault record or `STATE`. -/
theorem faultIsStickyUntilConstruct : Obligations.FaultIsStickyUntilConstruct := by
  unfold Obligations.FaultIsStickyUntilConstruct
  intro s t hfault hstep hkeep
  obtain ⟨q, rfl⟩ := step_next_of_faulted hstep hfault hkeep
  exact ⟨hfault, rfl, rfl, rfl, final_of_faulted hfault⟩

end Sys2Proof.Machine
end

section
/-!
SUPPORT. Two statements whose content stands in the laws above: the decoder read back from the encoder
(30_encoding.md), and the invariant at reset (10_state.md).
-/

namespace Sys2Proof.Machine

/-- Settles O11: the opcode is read from the last two digits, each operand from its own digit and parameter word. -/
theorem decodeOfEncodeIsTheInstruction : Obligations.DecodeOfEncodeIsTheInstruction := by
  unfold Obligations.DecodeOfEncodeIsTheInstruction
  intro c i rest hc hi
  exact decode_encode_append hc hi rest

/-- Settles O2: each part of the invariant is evaluated at the fixed reset values; in `READY` both status bits are 0. -/
theorem resetSatisfiesTheInvariant : Obligations.ResetSatisfiesTheInvariant := by
  unfold Obligations.ResetSatisfiesTheInvariant
  exact {
    cfg_wf := by decide
    constructed := rfl
    mem_wf := rfl
    mem_inBounds := rfl
    pc_inRange := rfl
    rb_word := by decide
    q_words := rfl
    q_fits := rfl
    outData_word := by decide
    fpc_inRange := rfl
    finfo_word := by decide
    outValid_iff := by decide
    fcause_iff := by decide }

end Sys2Proof.Machine
end
